-- ==== Sys2Proof/Word.lean ====
section
/-! DEFINITION. The word types of the block (spec 20_memory.md R46, 10_state.md R37 to R39): everything the bus moves is a
32-bit word at a 19-bit byte address; the cells are a byte, a symbol (at most 8 bits wide) and a 9-bit node index. -/

namespace Sys2Proof

/-- A 32-bit bus word (R46). -/
abbrev Word := BitVec 32

/-- A 19-bit byte address of the host's address space (R46). -/
abbrev Addr := BitVec 19

/-- One byte of BITBUF (R39). -/
abbrev Byte := BitVec 8

/-- One symbol (R5, R38). The type is wide enough for the widest configuration, `SYM_W = 8`; for a narrower one every stored
symbol is below `ALPHABET` (`State.wf`). -/
abbrev Sym := BitVec 8

/-- A node index of the code-tree ROM: a 9-bit unsigned field (R8). -/
abbrev NodeIx := BitVec 9

/-- A 64-bit transaction word (R78). -/
abbrev TxnWord := BitVec 64

end Sys2Proof
end

