-- ==== Sys2Proof/Syntax.lean ====
section
/-! DEFINITION. The instructions of the block: one constructor for each row of spec/opcode_table.json. The block has no instruction
set in the usual sense (30_encoding.md): the host executes the two bus transactions RD and WR, and the engine executes the
command words that a WR to CMD submits. -/

namespace Sys2Proof

/-- The rows of the opcode table. -/
inductive Instr where
  /-- NOP, command word 0x0000_0000 (41_command_protocol.md R102). -/
  | nop
  /-- ENCODE, command word 0x0000_0001 (44_encoder.md R129). -/
  | encode
  /-- DECODE, command word 0x0000_0002 (45_decoder.md R139). -/
  | decode
  /-- CLEAR_LUT, command word 0x0000_0003 (41_command_protocol.md R103). -/
  | clearLut
  /-- BAD_CMD (reserved): every other command word, which is its operand (30_encoding.md R67, 41_command_protocol.md R104). -/
  | badCmd (w : Word)
  /-- RD addr: one host read transaction (40_host_bus.md R82). -/
  | rd (addr : Addr)
  /-- WR addr, data: one host write transaction (40_host_bus.md R87). -/
  | wr (addr : Addr) (data : Word)
deriving DecidableEq, Repr

end Sys2Proof
end

