-- ==== Sys2Proof/WellFormed.lean ====
section
/-! DEFINITION. Which instruction terms stand for an encoding. The operand types already hold an address to 19 bits and data to 32
(30_encoding.md R78). The one further check: a reserved command's word is none of the four words that R79 names. -/

namespace Sys2Proof

/-- The word is one of the four command words that 30_encoding.md R66 assigns. -/
def namedCmdWord (w : Word) : Bool :=
  w == 0x00000000 || w == 0x00000001 || w == 0x00000002 || w == 0x00000003

/-- An instruction that some word decodes to. -/
def Instr.wf : Instr → Bool
  | .nop => true
  | .encode => true
  | .decode => true
  | .clearLut => true
  | .badCmd w => !namedCmdWord w
  | .rd _ => true
  | .wr _ _ => true

end Sys2Proof
end

