-- ==== Sys2Proof/Decode.lean ====
section
/-! DEFINITION. The decoder of the two word formats of the opcode table and, after it, the encoder (30_encoding.md R65 to R67, R78,
R79). A command word is 32 bits and every one of them decodes (R79). A transaction word is 64 bits; one whose must-be-zero bits are
not zero is no transaction (R78) and is rejected by name. -/

namespace Sys2Proof

/-- Why a 64-bit word is not a transaction (R78). -/
inductive TxnError where
  /-- bits [62:51] are not all zero -/
  | mustBeZero (w : TxnWord)
  /-- an RD word whose DATA field is not zero -/
  | readData (w : TxnWord)
deriving DecidableEq, Repr

/-- Why a word of the opcode table's formats decodes to no instruction. -/
inductive DecodeError where
  | notATransaction (e : TxnError)
  /-- neither a 32-bit command word nor a 64-bit transaction word -/
  | width (nbits : Nat)
deriving DecidableEq, Repr

/-- The words of an instruction as the hardware takes them: a 32-bit word for the engine (format CMD) or a 64-bit transaction word
of the host (format TXN). -/
inductive Code where
  | cmd (w : Word)
  | txn (w : TxnWord)
deriving DecidableEq, Repr

/-- OP, bits [7:0] of a command word (R65). -/
def cmdOp (w : Word) : BitVec 8 := w.extractLsb' 0 8

/-- RSV, bits [31:8] of a command word (R65). -/
def cmdRsv (w : Word) : BitVec 24 := w.extractLsb' 8 24

/-- Command decoding is total (R79; 41_command_protocol.md R100). -/
def decodeCmd (w : Word) : Instr :=
  if cmdRsv w ≠ 0 then .badCmd w
  else if cmdOp w = 0x00 then .nop
  else if cmdOp w = 0x01 then .encode
  else if cmdOp w = 0x02 then .decode
  else if cmdOp w = 0x03 then .clearLut
  else .badCmd w

/-- WE, bit 63 of a transaction word (R78). -/
def txnWe (w : TxnWord) : Bool := w.getLsbD 63

/-- The must-be-zero bits [62:51] of a transaction word (R78). -/
def txnMbz (w : TxnWord) : BitVec 12 := w.extractLsb' 51 12

/-- ADDR, bits [50:32] of a transaction word (R78). -/
def txnAddr (w : TxnWord) : Addr := w.extractLsb' 32 19

/-- DATA, bits [31:0] of a transaction word (R78). -/
def txnData (w : TxnWord) : Word := w.extractLsb' 0 32

/-- Transaction decoding (R78): "A word with nonzero must-be-zero bits is not a transaction". -/
def decodeTxn (w : TxnWord) : Except TxnError Instr :=
  if txnMbz w ≠ 0 then .error (.mustBeZero w)
  else if txnWe w then .ok (.wr (txnAddr w) (txnData w))
  else if txnData w ≠ 0 then .error (.readData w)
  else .ok (.rd (txnAddr w))

/-- The decoder of both formats. -/
def decodeCode : Code → Except DecodeError Instr
  | .cmd w => .ok (decodeCmd w)
  | .txn w =>
    match decodeTxn w with
    | .ok i => .ok i
    | .error e => .error (.notATransaction e)

/-- The word of `nbits` bits that the opcode table numbers `w`: its CMD rows are 32-bit words and its TXN rows 64-bit words. No word
of the block is laid out in bytes (20_memory.md R47; assumption log 12). -/
def codeOfTable (nbits w : Nat) : Except DecodeError Code :=
  if nbits = 0 then .error (.width nbits)
  else if nbits ≤ 32 then .ok (.cmd (BitVec.ofNat 32 w))
  else if nbits ≤ 64 then .ok (.txn (BitVec.ofNat 64 w))
  else .error (.width nbits)

/-- The instruction that the decoder reads from the opcode table's word `w` of `nbits` bits; none where it refuses. -/
def decodeTableWord (nbits w : Nat) : Option Instr :=
  match codeOfTable nbits w with
  | .error _ => none
  | .ok c =>
    match decodeCode c with
    | .ok i => some i
    | .error _ => none

/-- A command word from its fields (R65). -/
def cmdWord (rsv : BitVec 24) (op : BitVec 8) : Word := rsv ++ op

/-- A transaction word from its fields (R78). -/
def txnWord (we : Bool) (addr : Addr) (data : Word) : TxnWord :=
  BitVec.ofBool we ++ (0 : BitVec 12) ++ addr ++ data

/-- The words of a well-formed instruction (R66, R67, R78). -/
def encode : Instr → Code
  | .nop => .cmd (cmdWord 0 0x00)
  | .encode => .cmd (cmdWord 0 0x01)
  | .decode => .cmd (cmdWord 0 0x02)
  | .clearLut => .cmd (cmdWord 0 0x03)
  | .badCmd w => .cmd w
  | .rd addr => .txn (txnWord false addr 0)
  | .wr addr data => .txn (txnWord true addr data)

end Sys2Proof
end

