-- ==== Sys2Proof/Config.lean ====
section
/-! DEFINITION. What an implementation of the block fixes (spec 00_scope.md R5 to R9) and the free values of the model.
A configuration is a value of `Config`; its bounds are `Config.wf`. ENGINE_LATENCY (R9) is OPEN and no value at all: the
schedule of `Machine/State.lean` says when the engine steps. -/

namespace Sys2Proof

/-- The parameters an implementation chooses (R5, R6, R7). `ALPHABET`, `CODE_WORDS` and `NODES` follow from them
(`Machine/Params.lean`). -/
structure Config where
  /-- SYM_W, the symbol width in bits (R5). -/
  symW : Nat
  /-- MAX_LEN, the longest code a LUT entry can hold, in bits (R6). -/
  maxLen : Nat
  /-- SYM_CAP, the capacity of the symbol buffer in symbols (R7). -/
  symCap : Nat
  /-- BYTE_CAP, the capacity of the bit buffer in bytes (R7). -/
  byteCap : Nat
deriving DecidableEq, Repr

/-- The bounds the spec sets for each parameter (R5, R6, R7). -/
abbrev Config.wf (c : Config) : Prop :=
  (1 ≤ c.symW ∧ c.symW ≤ 8) ∧ (1 ≤ c.maxLen ∧ c.maxLen ≤ 255) ∧
  (1 ≤ c.symCap ∧ c.symCap ≤ 16384) ∧ (1 ≤ c.byteCap ∧ c.byteCap ≤ 16384)

/-- The default configuration (R5, R6, R7). -/
def Config.default : Config := { symW := 8, maxLen := 255, symCap := 4096, byteCap := 4096 }

/-- The failure causes of STATUS.CAUSE (60_exceptions.md R153). Codes 0x0A to 0xFF are reserved and never produced, so they
are no constructor. -/
inductive Cause where
  | none | badCmd | nsymRange | nbitsRange | noCode | badCode | outOvf | noTree | romRange | exhausted
deriving DecidableEq, Repr, Inhabited

/-- The registers that an ENCODE or a DECODE writes when it finishes: what they hold after an engine step that raised a
model fault is what the model does not say (41_command_protocol.md R101, 60_exceptions.md R166). -/
structure FinishRegs where
  done : Bool
  fail : Bool
  cause : Cause
  errInfo : Word
  encBitlen : Word
  encBytelen : Word
  decBitsUsed : Word
deriving DecidableEq, Repr, Inhabited

/-- FREE VALUE: what the hardware returns for a host read of a cell that nothing has written (40_host_bus.md R86: "an unspecified
32-bit value"). It has no body: nothing can be proved of a value of it. Its argument is the counter `State.fresh`. DESIGN
CHOICE, safe (assumption log 3). -/
opaque Config.freeRead : Nat → Word

/-- FREE VALUE: what the registers of a finishing command hold after an engine step that raised a model fault (R101, R166: "the
model says nothing of the registers it would have written"). Its argument is the counter `State.fresh`. DESIGN CHOICE, safe
(assumption log 4). -/
opaque Config.freeFinish : Nat → FinishRegs

end Sys2Proof
end

