-- ==== Sys2Proof/Machine/State.lean ====
section
/-! DEFINITION. The state of the block, as plain data (spec 10_state.md): its registers and flags, its memories, the pending command,
the model fault, the two output ports of the last transaction, and two fields of the model's own (the schedule of the two agents and
the counter of free values). -/

namespace Sys2Proof.Machine

/-- A sparse memory: (index, value) pairs, indices strictly rising (`Memory.wf`, Machine/Memory.lean). For LUTC, ROM, SYMBUF and BITBUF an
unlisted index is UNWRITTEN: it has no value (10_state.md R40; assumption log 7). For the LUT headers an unlisted index holds the reset header. -/
abbrev Memory (α : Type) := List (Nat × α)

/-- A LUT header: the valid bit V and the code length LEN (10_state.md R35). -/
structure LutHeader where
  v : Bool
  len : BitVec 8
deriving DecidableEq, Repr

/-- The reset value of every LUT header: V = 0, LEN = 0 (R35). -/
def LutHeader.zero : LutHeader := { v := false, len := 0 }

/-- A node of the code-tree ROM: the 19 stored bits (10_state.md R37, 30_encoding.md R69). -/
structure Node where
  leaf : Bool
  a : NodeIx
  b : NodeIx
deriving DecidableEq, Repr

/-- A cell that reset leaves unwritten, by its space and index (00_scope.md R13). -/
inductive Cell where
  | lutc (s w : Nat)
  | rom (i : Nat)
  | symbuf (i : Nat)
  | bitbuf (i : Nat)
deriving DecidableEq, Repr

/-- The model faults (60_exceptions.md R166). A step never stops with one: as R86, R101 and R166 say, raising one SETS `State.modelFault` and
the machine goes on, with free values where the spec says that a value is not defined (assumption log 3 and 4). -/
inductive Fault where
  /-- UNINIT_READ(space, index): RD, ENCODE or DECODE read a cell that nothing has written since reset. Safe: the hardware goes on with an
  unspecified value, and so does the model. -/
  | uninitRead (c : Cell)
deriving DecidableEq, Repr

/-- Why a step has no meaning. -/
inductive Refusal where
  /-- exec, for an instruction whose meaning is not written. No arm raises it in this model. Safe. -/
  | notModelled (mnemonic : String)
  /-- The step, for a scheduled 64-bit word that is no transaction: 30_encoding.md R78, "a model's transcriber refuses it. It is not sent to
  the block". Safe (assumption log 11). -/
  | notATransaction (w : TxnWord)
deriving DecidableEq, Repr

/-- One step of the outside world's choosing (00_scope.md R10, 70_reset_and_hazards.md R168). -/
inductive Event where
  /-- the host issues a transaction, given as its transaction word (30_encoding.md R78) -/
  | txn (w : TxnWord)
  /-- the engine takes its step, if a command is pending (41_command_protocol.md R96) -/
  | engine
  /-- one reset (70_reset_and_hazards.md R168) -/
  | reset
deriving DecidableEq, Repr

/-- The state of the machine. -/
structure State where
  /-- the configuration (00_scope.md R5 to R8); no step changes it (assumption log 1) -/
  cfg : Config
  /-- ENC_NSYM.N (R29) -/
  encNsym : BitVec 15
  /-- DEC_NSYM.N (R31) -/
  decNsym : BitVec 15
  /-- DEC_NBITS.NBITS (R32) -/
  decNbits : BitVec 18
  /-- TREE_CFG.VALID (R34) -/
  treeValid : Bool
  /-- TREE_CFG.ROOT (R34) -/
  treeRoot : NodeIx
  /-- ENC_BITLEN (R30) -/
  encBitlen : Word
  /-- ENC_BYTELEN (R30) -/
  encBytelen : Word
  /-- DEC_BITSUSED (R33) -/
  decBitsUsed : Word
  /-- ERR_INFO (R28) -/
  errInfo : Word
  /-- STATUS.DONE (R26) -/
  done : Bool
  /-- STATUS.FAIL (R26) -/
  fail : Bool
  /-- STATUS.CAUSE (R26) -/
  cause : Cause
  /-- STATUS.OVR (R27) -/
  ovr : Bool
  /-- STATUS.BUSERR (R27) -/
  busErr : Bool
  /-- the accepted command that the engine has not finished (R41); STATUS.BUSY is whether there is one (R25) -/
  pending : Option Word
  /-- LUTH, by symbol value (R35); an unlisted header is `LutHeader.zero` -/
  lutHdr : Memory LutHeader
  /-- LUTC, word `w` of symbol `s` at index `16*s + w` (R36) -/
  lutCode : Memory Word
  /-- ROM, by node index (R37) -/
  rom : Memory Node
  /-- SYMBUF, by symbol index (R38) -/
  symbuf : Memory Sym
  /-- BITBUF, by byte index (R39) -/
  bitbuf : List Host.Cell
  /-- the first model fault since reset (R43) -/
  modelFault : Option Fault
  /-- the `rdata` port: what the last RD returned (00_scope.md R11) -/
  rdata : Word
  /-- the `err` port of the last transaction (00_scope.md R11, 20_memory.md R52) -/
  err : Bool
  /-- MODEL'S OWN: the steps still to come, in order: any interleaving of the host's transactions, the engine's steps and resets
  (20_memory.md R61) -/
  schedule : List Event
  /-- MODEL'S OWN: how many free values have been used -/
  fresh : Nat
deriving DecidableEq, Repr

/-- The machine right after reset (10_state.md R45), in the default configuration, with nothing scheduled. -/
def State.reset : State where
  cfg := Config.default
  encNsym := 0
  decNsym := 0
  decNbits := 0
  treeValid := false
  treeRoot := 0
  encBitlen := 0
  encBytelen := 0
  decBitsUsed := 0
  errInfo := 0
  done := false
  fail := false
  cause := .none
  ovr := false
  busErr := false
  pending := none
  lutHdr := []
  lutCode := []
  rom := []
  symbuf := []
  bitbuf := []
  modelFault := none
  rdata := 0
  err := false
  schedule := []
  fresh := 0

end Sys2Proof.Machine
end

