-- ==== Sys2Proof/Machine/Params.lean ====
section
/-! DEFINITION. The sizes that follow from the configuration (00_scope.md R5, R6, R8), and the arithmetic they are written with
(R12). -/

namespace Sys2Proof

/-- `ceil_div(a, b) = (a + b - 1) div b` for `b > 0` (R12). -/
def ceilDiv (a b : Nat) : Nat := (a + b - 1) / b

/-- ALPHABET = 2^SYM_W, the number of symbol values (R5). -/
def Config.alphabet (c : Config) : Nat := 2 ^ c.symW

/-- CODE_WORDS = ceil_div(MAX_LEN, 32), the code words of a LUT entry (R6). -/
def Config.codeWords (c : Config) : Nat := ceilDiv c.maxLen 32

/-- NODES = 2*ALPHABET - 1, the cells of the ROM (R8). -/
def Config.nodes (c : Config) : Nat := 2 * c.alphabet - 1

/-- `v[SYM_W-1:0]`: a value as a symbol buffer cell stores it (20_memory.md R57) and as a leaf's field A names it (30_encoding.md R69). -/
def Config.symOf (c : Config) (v : Nat) : Sym := BitVec.ofNat 8 (v % c.alphabet)

/-- The code of a failure cause, as STATUS.CAUSE shows it (60_exceptions.md R153). -/
def Cause.code : Cause → BitVec 8
  | .none => 0x00
  | .badCmd => 0x01
  | .nsymRange => 0x02
  | .nbitsRange => 0x03
  | .noCode => 0x04
  | .badCode => 0x05
  | .outOvf => 0x06
  | .noTree => 0x07
  | .romRange => 0x08
  | .exhausted => 0x09

end Sys2Proof
end

