-- ==== Sys2Proof/Machine/Memory.lean ====
section
/-! DEFINITION. The named operations over one sparse memory, and its canonical form: indices strictly rising. A memory whose unlisted indices
hold a value (the LUT headers) lists no entry equal to that value. -/

namespace Sys2Proof.Machine

/-- The canonical form: the listed indices rise strictly, so equal memories are equal lists. -/
abbrev Memory.wf {α : Type} (m : Memory α) : Prop := m.Pairwise (fun p q => p.1 < q.1)

/-- The value at an index, or none where nothing is listed (10_state.md R40: unwritten). -/
def Memory.read {α : Type} : Memory α → Nat → Option α
  | [], _ => none
  | (j, v) :: m, k => if j = k then some v else Memory.read m k

/-- Write one cell (00_scope.md R13, MemWrite). -/
def Memory.write {α : Type} : Memory α → Nat → α → Memory α
  | [], k, v => [(k, v)]
  | (j, u) :: m, k, v =>
    if k < j then (k, v) :: (j, u) :: m
    else if k = j then (k, v) :: m
    else (j, u) :: Memory.write m k v

/-- Take an index off the list. -/
def Memory.erase {α : Type} : Memory α → Nat → Memory α
  | [], _ => []
  | (j, u) :: m, k => if j = k then m else (j, u) :: Memory.erase m k

/-- Write a list of values to the indices from `k` up: the commit of a staged output. -/
def Memory.writeFrom {α : Type} (m : Memory α) (k : Nat) : List α → Memory α
  | [] => m
  | v :: vs => Memory.writeFrom (m.write k v) (k + 1) vs

/-- The LUT header of a symbol; an unlisted one is the reset header (10_state.md R35). -/
def Memory.readHeader (m : Memory LutHeader) (s : Nat) : LutHeader := (Memory.read m s).getD LutHeader.zero

/-- Write a LUT header, keeping the canonical form: the reset header is not listed. -/
def Memory.writeHeader (m : Memory LutHeader) (s : Nat) (h : LutHeader) : Memory LutHeader :=
  if h = LutHeader.zero then Memory.erase m s else Memory.write m s h

/-- Clear the V bit of every header and keep its LEN (41_command_protocol.md R103). An unlisted header has V = 0 already. -/
def Memory.clearV : Memory LutHeader → Memory LutHeader
  | [] => []
  | (s, h) :: m =>
    if h.len = 0 then Memory.clearV m
    else (s, { v := false, len := h.len }) :: Memory.clearV m

/-- No listed header is the reset header. -/
abbrev Memory.noZeroHeader (m : Memory LutHeader) : Prop := ∀ p ∈ m, p.2 ≠ LutHeader.zero

end Sys2Proof.Machine
end

