-- ==== Sys2Proof/Machine/Operands.lean ====
section
/-! DEFINITION. Every operand form of the block: where an address leads (20_memory.md R49 to R59, 10_state.md R18 to R20), the word formats of
registers, LUT headers and ROM nodes (30_encoding.md R68 to R70), and the information words of ERR_INFO (60_exceptions.md R153). -/

namespace Sys2Proof.Machine

/-- The registers of the register map (10_state.md R18). -/
inductive Reg where
  | id | param | caps | cmd | status | errInfo | encNsym | encBitlen | encBytelen | decNsym | decNbits | decBitsUsed | treeCfg
deriving DecidableEq, Repr

/-- The access types of R19; STATUS is read-only but for its write-1-to-clear bits. -/
inductive Access where
  | ro | rw | wo | roW1c
deriving DecidableEq, Repr

/-- Every register, in the order of R18's table. -/
def Reg.all : List Reg :=
  [.id, .param, .caps, .cmd, .status, .errInfo, .encNsym, .encBitlen, .encBytelen, .decNsym, .decNbits, .decBitsUsed, .treeCfg]

/-- The byte offset of a register (R18). -/
def Reg.offset : Reg → Nat
  | .id => 0x000
  | .param => 0x004
  | .caps => 0x008
  | .cmd => 0x010
  | .status => 0x014
  | .errInfo => 0x018
  | .encNsym => 0x020
  | .encBitlen => 0x024
  | .encBytelen => 0x028
  | .decNsym => 0x030
  | .decNbits => 0x034
  | .decBitsUsed => 0x038
  | .treeCfg => 0x040

/-- The access type of a register (R18, R19). -/
def Reg.access : Reg → Access
  | .id => .ro
  | .param => .ro
  | .caps => .ro
  | .cmd => .wo
  | .status => .roW1c
  | .errInfo => .ro
  | .encNsym => .rw
  | .encBitlen => .ro
  | .encBytelen => .ro
  | .decNsym => .rw
  | .decNbits => .rw
  | .decBitsUsed => .ro
  | .treeCfg => .rw

/-- The register at a byte offset; an offset that R18 does not list is unmapped (R20). -/
def Reg.ofOffset (off : Nat) : Option Reg := Reg.all.find? (fun r => r.offset = off)

/-- What an aligned, mapped address names: a register or one cell of a window. -/
inductive Loc where
  | reg (r : Reg)
  /-- the header of symbol `s` -/
  | lutHeader (s : Nat)
  /-- code word `w` of symbol `s`, `w` from 0 -/
  | lutWord (s w : Nat)
  | rom (i : Nat)
  | symbuf (i : Nat)
  | bitbuf (i : Nat)
deriving DecidableEq, Repr

/-- The location is a window cell, not a register (20_memory.md R49). -/
def Loc.isWindow : Loc → Bool
  | .reg _ => false
  | .lutHeader _ => true
  | .lutWord _ _ => true
  | .rom _ => true
  | .symbuf _ => true
  | .bitbuf _ => true

/-- The location is read and written as a plain value while BUSY = 0 and a write of it is refused while BUSY = 1: an RW register or a window
cell (70_reset_and_hazards.md R176). -/
def Loc.isRw : Loc → Bool
  | .reg r => r.access = .rw
  | .lutHeader _ => true
  | .lutWord _ _ => true
  | .rom _ => true
  | .symbuf _ => true
  | .bitbuf _ => true

/-- A transaction whose `addr[1:0] != 0` is misaligned (20_memory.md R50). -/
def misaligned (a : Addr) : Bool := a.extractLsb' 0 2 != 0

/-- Word index `k` of the LUT window (R55): word 0 of an entry is the header, 1 to CODE_WORDS the code words, the rest unmapped. -/
def lutLoc (c : Config) (k : Nat) : Option Loc :=
  if k / 16 < c.alphabet then
    if k % 16 = 0 then some (.lutHeader (k / 16))
    else if k % 16 ≤ c.codeWords then some (.lutWord (k / 16) (k % 16 - 1))
    else none
  else none

/-- What an aligned address names, or none where it is unmapped (20_memory.md R49, R54 to R59; 10_state.md R20). -/
def mapped (c : Config) (a : Addr) : Option Loc :=
  let region := a.toNat / 0x10000
  let off := a.toNat % 0x10000
  let k := off / 4
  if region = 0 then (Reg.ofOffset off).map .reg
  else if region = 1 then lutLoc c k
  else if region = 2 then if k < c.nodes then some (.rom k) else none
  else if region = 3 then if k < c.symCap then some (.symbuf k) else none
  else if region = 4 then if k < c.byteCap then some (.bitbuf k) else none
  else none

/-- The byte address of a location (R49, 30_encoding.md R76). -/
def Loc.addr : Loc → Addr
  | .reg r => BitVec.ofNat 19 r.offset
  | .lutHeader s => BitVec.ofNat 19 (0x10000 + 64 * s)
  | .lutWord s w => BitVec.ofNat 19 (0x10000 + 64 * s + 4 * (w + 1))
  | .rom i => BitVec.ofNat 19 (0x20000 + 4 * i)
  | .symbuf i => BitVec.ofNat 19 (0x30000 + 4 * i)
  | .bitbuf i => BitVec.ofNat 19 (0x40000 + 4 * i)

/-- A LUT header as its word reads: `{V, 23'b0, LEN[7:0]}` (R55). -/
def LutHeader.toWord (h : LutHeader) : Word := BitVec.ofBool h.v ++ (0 : BitVec 23) ++ h.len

/-- The header that a written word stores: bits [30:8] are dropped (R55). -/
def LutHeader.ofWord (w : Word) : LutHeader := { v := w.getLsbD 31, len := w.extractLsb' 0 8 }

/-- A node as its word reads: LEAF in bit 31, B in [24:16], A in [8:0], every other bit 0 (R56, 30_encoding.md R69). -/
def Node.toWord (n : Node) : Word := BitVec.ofBool n.leaf ++ (0 : BitVec 6) ++ n.b ++ (0 : BitVec 7) ++ n.a

/-- The node that a written word stores, which is total (R56, 30_encoding.md R80). -/
def Node.ofWord (w : Word) : Node := { leaf := w.getLsbD 31, a := w.extractLsb' 0 9, b := w.extractLsb' 16 9 }

/-- `node.sym = A[SYM_W-1:0]` for a leaf (30_encoding.md R69). -/
def Node.sym (c : Config) (n : Node) : Sym := c.symOf n.a.toNat

/-- `child(node, b)`: the zero-branch A for `b = 0`, the one-branch B for `b = 1` (30_encoding.md R69). -/
def Node.child (n : Node) (b : Bool) : NodeIx := if b then n.b else n.a

/-- The three kinds of LUT header (30_encoding.md R81). -/
inductive HeaderKind where
  | absent | usable | bad
deriving DecidableEq, Repr

/-- LUT-header decoding is total (30_encoding.md R81). -/
def LutHeader.kind (c : Config) (h : LutHeader) : HeaderKind :=
  if h.v = false then .absent
  else if h.len.toNat = 0 ∨ c.maxLen < h.len.toNat then .bad
  else .usable

/-- The information word of NO_CODE and BAD_CODE: `{zext_8(s), 8'h00, zext_16(i)}` (60_exceptions.md R153). -/
def symbolInfo (s : Sym) (i : Nat) : Word := s ++ (0 : BitVec 8) ++ BitVec.ofNat 16 i

/-- The information word of ROM_RANGE: `{7'h00, index[8:0], zext_16(k)}` (60_exceptions.md R153). -/
def romInfo (index : NodeIx) (k : Nat) : Word := (0 : BitVec 7) ++ index ++ BitVec.ofNat 16 k

/-- The information word that is a count of symbols or bits (60_exceptions.md R153). -/
def countInfo (n : Nat) : Word := BitVec.ofNat 32 n

/-- Bit `i` of a byte set to `b` (00_scope.md R12). -/
def setBit (v : Byte) (i : Nat) (b : Bool) : Byte :=
  if b then v ||| (1#8 <<< i) else v &&& ~~~(1#8 <<< i)

end Sys2Proof.Machine
end

