-- ==== Sys2Proof/Machine/Flags.lean ====
section
/-! DEFINITION. The flags of the block: the bits of STATUS (10_state.md R17, R25 to R27), what each of them becomes, and STATUS as a word
(40_host_bus.md R84). -/

namespace Sys2Proof.Machine

/-- STATUS.BUSY: a command is pending (R25). -/
def State.busy (s : State) : Bool := s.pending.isSome

/-- `{8'h00, CAUSE[7:0], 6'b0, BUSERR, OVR, 5'b0, FAIL, DONE, BUSY}` (R84). -/
def State.statusValue (s : State) : Word :=
  (0 : BitVec 8) ++ s.cause.code ++ (0 : BitVec 6) ++ BitVec.ofBool s.busErr ++ BitVec.ofBool s.ovr ++ (0 : BitVec 5) ++
    BitVec.ofBool s.fail ++ BitVec.ofBool s.done ++ BitVec.ofBool s.busy

/-- A STATUS write clears OVR and BUSERR where its bit 8 or 9 is 1, and nothing else (R89). -/
def State.statusWrite (s : State) (data : Word) : State :=
  { s with ovr := s.ovr && !data.getLsbD 8, busErr := s.busErr && !data.getLsbD 9 }

/-- The flags and ERR_INFO that accepting a command clears (41_command_protocol.md R95). -/
def State.clearResultFlags (s : State) : State :=
  { s with done := false, fail := false, cause := .none, errInfo := 0 }

/-- The flags of a command that succeeded (41_command_protocol.md R101). -/
def State.setSuccess (s : State) : State :=
  { s with done := true, fail := false, cause := .none, errInfo := 0 }

/-- The flags and ERR_INFO of a command that failed (41_command_protocol.md R101, 60_exceptions.md R156). -/
def State.setFailure (s : State) (c : Cause) (info : Word) : State :=
  { s with done := true, fail := true, cause := c, errInfo := info }

end Sys2Proof.Machine
end

