-- ==== Sys2Proof/Machine/Ops.lean ====
section
/-! DEFINITION. The shared operations of the meanings: reads of cells that may be unwritten, the bus responses, acceptance and overrun of a
command, the three ways a command finishes (41_command_protocol.md R101), and reset. The block has no traps and no return (60_exceptions.md
R152, R158): `State.raise` is the one way a failure is recorded. -/

namespace Sys2Proof.Machine

/-- How a command stops before it succeeds (R101). -/
inductive Stop where
  /-- `raise CAUSE(info)` -/
  | raise (c : Cause) (info : Word)
  /-- a model fault -/
  | fault (f : Fault)
deriving DecidableEq, Repr

/-- The value of a cell, or UNINIT_READ where nothing has written it (00_scope.md R13, 10_state.md R40). -/
def written {α : Type} (c : Cell) : Option α → Except Fault α
  | some v => .ok v
  | none => .error (.uninitRead c)

/-- The index of code word `w` of symbol `s` in the sparse memory: the word index of its LUT entry, less the header. -/
def lutCodeIndex (s w : Nat) : Nat := 16 * s + w

/-- `LUTH[s]`, which is never unwritten (10_state.md R35). -/
def State.lutHeader (s : State) (sym : Nat) : LutHeader := Memory.readHeader s.lutHdr sym

/-- `MemRead(LUTC, (sym, w))` (R13). -/
def State.readLutCode (s : State) (sym w : Nat) : Except Fault Word :=
  written (.lutc sym w) (Memory.read s.lutCode (lutCodeIndex sym w))

/-- `MemRead(ROM, i)` (R13). -/
def State.readRom (s : State) (i : Nat) : Except Fault Node := written (.rom i) (Memory.read s.rom i)

/-- `MemRead(SYMBUF, i)` (R13). -/
def State.readSymbuf (s : State) (i : Nat) : Except Fault Sym := written (.symbuf i) (Memory.read s.symbuf i)

/-- `MemRead(BITBUF, i)` (R13). -/
def State.readBitbuf (s : State) (i : Nat) : Except Fault Byte := written (.bitbuf i) (Memory.read s.bitbuf i)

/-- A read by the engine: an unwritten cell ends the command's run with the model fault (44_encoder.md R135, 45_decoder.md R150). -/
def engineRead {α : Type} : Except Fault α → Except Stop α
  | .ok v => .ok v
  | .error f => .error (.fault f)

/-- The model fault is set once and never cleared but by reset (10_state.md R43; assumption log 8). -/
def State.setModelFault (s : State) (f : Fault) : State :=
  { s with modelFault := match s.modelFault with
      | some g => some g
      | none => some f }

/-- The response to a read that succeeds: the value, and no error (R82). -/
def State.respondRead (s : State) (v : Word) : State := { s with rdata := v, err := false }

/-- The response to a write that is no bus error. A write returns no read data: `rdata` keeps what the last read returned (assumption
log 5). -/
def State.respondWrite (s : State) : State := { s with err := false }

/-- A bus-error read returns 0, sets STATUS.BUSERR and asserts `err`; nothing else changes (20_memory.md R52). -/
def State.busErrorRead (s : State) : State := { s with rdata := 0, busErr := true, err := true }

/-- A bus-error write changes no register and no cell, sets STATUS.BUSERR and asserts `err` (R52). -/
def State.busErrorWrite (s : State) : State := { s with busErr := true, err := true }

/-- A host read of an unwritten cell (40_host_bus.md R86): the model fault is set and the read's value is a free one; STATUS does not change
and it is no bus error. -/
def State.uninitHostRead (s : State) (f : Fault) : State :=
  { (s.setModelFault f).respondRead (Config.freeRead s.fresh) with fresh := s.fresh + 1 }

/-- Accepting the command word `w` (41_command_protocol.md R95). -/
def State.accept (s : State) (w : Word) : State := { s.clearResultFlags with pending := some w }

/-- A CMD write while a command is pending: OVR is set, the word is lost (41_command_protocol.md R97). -/
def State.overrun (s : State) : State := { s with ovr := true }

/-- `succeed`: the flags of success, and the last thing the step does, `pending <- empty` (R96, R101). -/
def State.succeed (s : State) : State := { s.setSuccess with pending := none }

/-- `raise CAUSE(info)`: the failure is recorded and nothing else is written (R101, 60_exceptions.md R156). -/
def State.raise (s : State) (c : Cause) (info : Word) : State := { s.setFailure c info with pending := none }

/-- What every engine step that raised a model fault leaves (R101, 60_exceptions.md R166): the fault is set, `pending` is empty, and the flags
and ERR_INFO that finishing would have written hold free values. -/
def State.engineFault (s : State) (f : Fault) (r : FinishRegs) : State :=
  { s.setModelFault f with
      pending := none, done := r.done, fail := r.fail, cause := r.cause, errInfo := r.errInfo, fresh := s.fresh + 1 }

/-- One reset (70_reset_and_hazards.md R168): every register and flag takes its reset value, every cell without one becomes unwritten, a pending
command is abandoned and the model fault is cleared. The configuration, the rest of the schedule and the counter of free values are no
state of the block: they stay. -/
def State.applyReset (s : State) : State :=
  { State.reset with cfg := s.cfg, schedule := s.schedule, fresh := s.fresh }

end Sys2Proof.Machine
end

