-- ==== Sys2Proof/Machine/Bus.lean ====
section
/-! DEFINITION. The host's two transactions, RD and WR (40_host_bus.md). -/

namespace Sys2Proof.Machine

/-- `regValue(off)`: a register's fields at their bits, reserved bits 0 (R83; the constants are 10_state.md R21 to R23). -/
def State.regValue (s : State) : Reg → Word
  | .id => 0x48554646
  | .param => (0x00 : BitVec 8) ++ (0x01 : BitVec 8) ++ BitVec.ofNat 8 s.cfg.maxLen ++ (0x0 : BitVec 4) ++ BitVec.ofNat 4 s.cfg.symW
  | .caps => BitVec.ofNat 16 s.cfg.byteCap ++ BitVec.ofNat 16 s.cfg.symCap
  | .cmd => 0
  | .status => s.statusValue
  | .errInfo => s.errInfo
  | .encNsym => s.encNsym.setWidth 32
  | .encBitlen => s.encBitlen
  | .encBytelen => s.encBytelen
  | .decNsym => s.decNsym.setWidth 32
  | .decNbits => s.decNbits.setWidth 32
  | .decBitsUsed => s.decBitsUsed
  | .treeCfg => BitVec.ofBool s.treeValid ++ (0 : BitVec 22) ++ s.treeRoot

/-- A read's value: `regValue` for a register (R83), `windowValue` for a window cell (R85); a cell that nothing has written has none (R86). -/
def State.locValue (s : State) : Loc → Except Fault Word
  | .reg r => .ok (s.regValue r)
  | .lutHeader sym => .ok (s.lutHeader sym).toWord
  | .lutWord sym w => s.readLutCode sym w
  | .rom i => (s.readRom i).map Node.toWord
  | .symbuf i => (s.readSymbuf i).map (BitVec.setWidth 32)
  | .bitbuf i => (s.readBitbuf i).map (BitVec.setWidth 32)

/-- Where a read leads; none where it is a bus error: misaligned, unmapped, or a window cell while BUSY = 1 (20_memory.md R52,
70_reset_and_hazards.md R176). -/
def State.readTarget (s : State) (a : Addr) : Option Loc :=
  if misaligned a then none
  else
    match mapped s.cfg a with
    | none => none
    | some l => if s.busy && l.isWindow then none else some l

/-- Where a plain write leads; none where it is a bus error: misaligned, unmapped, a read-only register, or an RW register or window cell
while BUSY = 1 (R52, R176). CMD and STATUS are no plain writes: `execWr` takes them first. -/
def State.writeTarget (s : State) (a : Addr) : Option Loc :=
  if misaligned a then none
  else
    match mapped s.cfg a with
    | none => none
    | some l => if l.isRw && !s.busy then some l else none

/-- `rwWrite` (R88) and `windowWrite` (R91, R92): a location stores the fields it has and drops the other bits of `data`. Only an RW register
stores; no other register is ever written here. -/
def State.writeLoc (s : State) (data : Word) : Loc → State
  | .reg .encNsym => { s with encNsym := data.extractLsb' 0 15 }
  | .reg .decNsym => { s with decNsym := data.extractLsb' 0 15 }
  | .reg .decNbits => { s with decNbits := data.extractLsb' 0 18 }
  | .reg .treeCfg => { s with treeValid := data.getLsbD 31, treeRoot := data.extractLsb' 0 9 }
  | .reg _ => s
  | .lutHeader sym => { s with lutHdr := Memory.writeHeader s.lutHdr sym (LutHeader.ofWord data) }
  | .lutWord sym w => { s with lutCode := Memory.write s.lutCode (lutCodeIndex sym w) data }
  | .rom i => { s with rom := Memory.write s.rom i (Node.ofWord data) }
  | .symbuf i => { s with symbuf := Memory.write s.symbuf i (s.cfg.symOf data.toNat) }
  | .bitbuf i => { s with bitbuf := Memory.write s.bitbuf i (data.extractLsb' 0 8) }

/-- `submit(data)`: acceptance while BUSY = 0, overrun while BUSY = 1 (R90). -/
def State.submit (s : State) (data : Word) : State := if s.busy then s.overrun else s.accept data

/-- RD addr (R82). -/
def execRd (addr : Addr) (s : State) : Host.Outcome State Fault Refusal :=
  .next (match s.readTarget addr with
    | none => s.busErrorRead
    | some l =>
      match s.locValue l with
      | .ok v => s.respondRead v
      | .error f => s.uninitHostRead f)

/-- WR addr, data (R87). -/
def execWr (addr : Addr) (data : Word) (s : State) : Host.Outcome State Fault Refusal :=
  .next (
    if addr.toNat = Reg.status.offset then (s.statusWrite data).respondWrite
    else if addr.toNat = Reg.cmd.offset then (s.submit data).respondWrite
    else
      match s.writeTarget addr with
      | none => s.busErrorWrite
      | some l => (s.writeLoc data l).respondWrite)

end Sys2Proof.Machine
end

