-- ==== Sys2Proof/Machine/Command.lean ====
section
/-! DEFINITION. The control commands NOP, CLEAR_LUT and the reserved command words (41_command_protocol.md). Each meaning is the whole engine
step of its command: it ends with `pending` empty (R96). -/

namespace Sys2Proof.Machine

/-- NOP (R102): `succeed`. -/
def execNop (s : State) : Host.Outcome State Fault Refusal := .next s.succeed

/-- CLEAR_LUT (R103): every header's V becomes 0, then `succeed`; LEN and the code words stay. -/
def execClearLut (s : State) : Host.Outcome State Fault Refusal :=
  .next { s with lutHdr := Memory.clearV s.lutHdr }.succeed

/-- A reserved command word `w` (R104): `raise BAD_CMD(w)`; no result register is zeroed. -/
def execBadCmd (w : Word) (s : State) : Host.Outcome State Fault Refusal := .next (s.raise .badCmd w)

end Sys2Proof.Machine
end

