-- ==== Sys2Proof/Machine/Bitpacker.lean ====
section
/-! DEFINITION. The bitpacker (43_bitpacker.md): the unit that appends codes to the encoder's staged output and takes bits of BITBUF for the
decoder. Its state lives only inside one engine step (R120, 10_state.md R42), so it is no field of `State`. -/

namespace Sys2Proof.Machine

/-- The packing state (R120). Its counters are numbers: ENCODE packs only totals up to `8*BYTE_CAP`, which fit R120's widths (assumption
log 9). -/
structure Packer where
  /-- the byte being assembled; bit `7 - nacc` is the next to fill -/
  acc : Byte
  /-- bits already in `acc` -/
  nacc : Nat
  /-- bits packed since PACK_BEGIN -/
  total : Nat
  /-- next BITBUF index to write -/
  wptr : Nat
  /-- the staged bytes, `out[0]` first -/
  out : List Byte
deriving DecidableEq, Repr

/-- PACK_BEGIN (R121). -/
def packBegin : Packer := { acc := 0, nacc := 0, total := 0, wptr := 0, out := [] }

/-- Move a full `acc` to the staged output (R122, R124). -/
def Packer.emit (p : Packer) : Packer :=
  { p with out := p.out ++ [p.acc], wptr := p.wptr + 1, acc := 0, nacc := 0 }

/-- PACK_BIT(b) (R122). -/
def Packer.packBit (p : Packer) (b : Bool) : Packer :=
  let q := { p with acc := setBit p.acc (7 - p.nacc) b, nacc := p.nacc + 1, total := p.total + 1 }
  if q.nacc = 8 then q.emit else q

/-- PACK_CODE(c) (R123): the bits of the code in its own order, `c_0` first. -/
def Packer.packCode (p : Packer) (c : List Bool) : Packer := c.foldl Packer.packBit p

/-- PACK_FLUSH (R124). -/
def Packer.flush (p : Packer) : Packer := if 0 < p.nacc then p.emit else p

/-- `bit(B, p)`: bit `7 - (p mod 8)` of a byte, for bit position `p` (20_memory.md R48). -/
def streamBit (v : Byte) (p : Nat) : Bool := v.getLsbD (7 - p % 8)

/-- The unpacking state (R120). -/
structure Unpacker where
  /-- next bit position to read -/
  rpos : Nat
  /-- number of readable bits -/
  limit : Nat
deriving DecidableEq, Repr

/-- UNPACK_BEGIN(nbits) (R126). -/
def unpackBegin (nbits : Nat) : Unpacker := { rpos := 0, limit := nbits }

/-- UNPACK_BIT (R127): a bit and the advanced state, none for EMPTY, or UNINIT_READ of the byte. -/
def State.unpackBit (s : State) (u : Unpacker) : Except Fault (Option (Bool × Unpacker)) :=
  if u.limit ≤ u.rpos then .ok none
  else
    match s.readBitbuf (u.rpos / 8) with
    | .error f => .error f
    | .ok v => .ok (some (streamBit v u.rpos, { u with rpos := u.rpos + 1 }))

end Sys2Proof.Machine
end

