-- ==== Sys2Proof/Machine/Decoder.lean ====
section
/-! DEFINITION. DECODE (45_decoder.md): the checks, the walk of the code-tree ROM, and the commit. -/

namespace Sys2Proof.Machine

/-- The walk's state (R145): the current node, the symbols emitted and the unpacker. It lives only inside one engine step (10_state.md R42). -/
structure Walk where
  /-- the current node -/
  cur : NodeIx
  /-- symbols emitted -/
  k : Nat
  up : Unpacker
  /-- `symOut[0 .. k-1]` -/
  symOut : List Sym
deriving DecidableEq, Repr

/-- The walk at the root, before the first bit (R145). -/
def walkBegin (root : NodeIx) (nbits : Nat) : Walk :=
  { cur := root, k := 0, up := unpackBegin nbits, symOut := [] }

/-- The move to the child for bit `b` (R145, R147): a leaf emits its symbol and the cursor goes back to the root. -/
def State.walkMove (s : State) (root : NodeIx) (w : Walk) (b : Bool) (up : Unpacker) : Except Stop Walk :=
  match engineRead (s.readRom w.cur.toNat) with
  | .error e => .error e
  | .ok node =>
    let nxt := node.child b
    if s.cfg.nodes ≤ nxt.toNat then .error (.raise .romRange (romInfo nxt w.k))
    else
      match engineRead (s.readRom nxt.toNat) with
      | .error e => .error e
      | .ok child =>
        if child.leaf then
          .ok { cur := root, k := w.k + 1, up := up, symOut := w.symOut ++ [child.sym s.cfg] }
        else .ok { w with cur := nxt, up := up }

/-- One iteration of the walk (R139, R145): take a bit, then move. -/
def State.walkStep (s : State) (root : NodeIx) (w : Walk) : Except Stop Walk :=
  match engineRead (s.unpackBit w.up) with
  | .error e => .error e
  | .ok none => .error (.raise .exhausted (countInfo w.k))
  | .ok (some (b, up)) => s.walkMove root w b up

/-- The walk (R145, R148): it stops as soon as `k = n`. Every iteration consumes one bit, so `nbits + 1` iterations reach EMPTY (R150); the
bound is never met before it. -/
def State.walk (s : State) (root : NodeIx) (n : Nat) : (bound : Nat) → Walk → Except Stop Walk
  | bound, w =>
    if n ≤ w.k then .ok w
    else
      match bound with
      | 0 => .error (.raise .exhausted (countInfo w.k))
      | bound + 1 =>
        match s.walkStep root w with
        | .error e => .error e
        | .ok w' => s.walk root n bound w'

/-- What a successful DECODE commits: the symbols and the number of bits consumed. -/
structure DecodeResult where
  syms : List Sym
  bitsUsed : Nat
deriving DecidableEq, Repr

/-- The part of DECODE that reads the tree, for a count `n ≥ 1` and a root in range: the degenerate tree (R144) or the walk (R145). -/
def State.decodeTree (s : State) (root : NodeIx) (n nbits : Nat) : Except Stop DecodeResult :=
  match engineRead (s.readRom root.toNat) with
  | .error e => .error e
  | .ok r =>
    if r.leaf then .ok { syms := List.replicate n (r.sym s.cfg), bitsUsed := 0 }
    else
      match s.walk root n (nbits + 1) (walkBegin root nbits) with
      | .error e => .error e
      | .ok w => .ok { syms := w.symOut, bitsUsed := w.up.rpos }

/-- The run of DECODE up to its commit, with the checks in the order of R140. -/
def State.decodeRun (s : State) : Except Stop DecodeResult :=
  let n := s.decNsym.toNat
  let nbits := s.decNbits.toNat
  if s.cfg.symCap < n then .error (.raise .nsymRange (countInfo n))
  else if 8 * s.cfg.byteCap < nbits then .error (.raise .nbitsRange (countInfo nbits))
  else if n = 0 then .ok { syms := [], bitsUsed := 0 }
  else if s.treeValid = false then .error (.raise .noTree 0)
  else if s.cfg.nodes ≤ s.treeRoot.toNat then .error (.raise .romRange (romInfo s.treeRoot 0))
  else s.decodeTree s.treeRoot n nbits

/-- The commit of a successful DECODE (R148, R149). -/
def State.commitDecode (s : State) (r : DecodeResult) : State :=
  { s.succeed with
      symbuf := Memory.writeFrom s.symbuf 0 r.syms
      decBitsUsed := BitVec.ofNat 32 r.bitsUsed }

/-- A failed DECODE (R149, 60_exceptions.md R156): DEC_BITSUSED becomes 0 and no memory is written. -/
def State.failDecode (s : State) (c : Cause) (info : Word) : State :=
  { s.raise c info with decBitsUsed := 0 }

/-- A DECODE that raised a model fault (R150, 41_command_protocol.md R101): what it would have written is not said. DEC_BITSUSED holds a free
value and no cell of SYMBUF has a value. -/
def State.faultDecode (s : State) (f : Fault) : State :=
  let r := Config.freeFinish s.fresh
  { s.engineFault f r with decBitsUsed := r.decBitsUsed, symbuf := [] }

/-- DECODE (R139). -/
def execDecode (s : State) : Host.Outcome State Fault Refusal :=
  .next (match s.decodeRun with
    | .ok r => s.commitDecode r
    | .error (.raise c info) => s.failDecode c info
    | .error (.fault f) => s.faultDecode f)

end Sys2Proof.Machine
end

