-- ==== Sys2Proof/Machine/Encoder.lean ====
section
/-! DEFINITION. ENCODE (44_encoder.md): the check of every symbol, the packing of every code, and the commit. -/

namespace Sys2Proof.Machine

/-- Pass 1 over symbols `i, i+1, …` (`todo` of them): the total length, or the first failing symbol's cause (R129, R130 (2)). The symbol is
read before its header is looked at (R135). -/
def State.checkSymbols (s : State) : (i todo total : Nat) → Except Stop Nat
  | _, 0, total => .ok total
  | i, todo + 1, total =>
    match engineRead (s.readSymbuf i) with
    | .error e => .error e
    | .ok sym =>
      match (s.lutHeader sym.toNat).kind s.cfg with
      | .absent => .error (.raise .noCode (symbolInfo sym i))
      | .bad => .error (.raise .badCode (symbolInfo sym i))
      | .usable => s.checkSymbols (i + 1) todo (total + (s.lutHeader sym.toNat).len.toNat)

/-- Code bits `j, j+1, …` (`todo` of them) of symbol `sym`: `c_j = MemRead(LUTC, (sym, j div 32))[31 - (j mod 32)]` (30_encoding.md R72). -/
def State.codeBits (s : State) (sym : Nat) : (j todo : Nat) → Except Stop (List Bool)
  | _, 0 => .ok []
  | j, todo + 1 =>
    match engineRead (s.readLutCode sym (j / 32)) with
    | .error e => .error e
    | .ok w =>
      match s.codeBits sym (j + 1) todo with
      | .error e => .error e
      | .ok bits => .ok (w.getLsbD (31 - j % 32) :: bits)

/-- `code(sym)`: the LEN bits of the symbol's code (R72). -/
def State.codeOf (s : State) (sym : Nat) : Except Stop (List Bool) :=
  s.codeBits sym 0 (s.lutHeader sym).len.toNat

/-- Pass 2 over symbols `i, i+1, …`: PACK_CODE of each symbol's code (R129). -/
def State.packSymbols (s : State) : (i todo : Nat) → Packer → Except Stop Packer
  | _, 0, p => .ok p
  | i, todo + 1, p =>
    match engineRead (s.readSymbuf i) with
    | .error e => .error e
    | .ok sym =>
      match s.codeOf sym.toNat with
      | .error e => .error e
      | .ok code => s.packSymbols (i + 1) todo (p.packCode code)

/-- What a successful ENCODE commits: the total bit count and the staged bytes. -/
structure EncodeResult where
  total : Nat
  bytes : List Byte
deriving DecidableEq, Repr

/-- The run of ENCODE up to its commit, with the checks in the order of R130. -/
def State.encodeRun (s : State) : Except Stop EncodeResult :=
  let n := s.encNsym.toNat
  if s.cfg.symCap < n then .error (.raise .nsymRange (countInfo n))
  else
    match s.checkSymbols 0 n 0 with
    | .error e => .error e
    | .ok total =>
      if 8 * s.cfg.byteCap < total then .error (.raise .outOvf (countInfo total))
      else
        match s.packSymbols 0 n packBegin with
        | .error e => .error e
        | .ok p => .ok { total := total, bytes := p.flush.out }

/-- The commit of a successful ENCODE (R131, R132). -/
def State.commitEncode (s : State) (r : EncodeResult) : State :=
  { s.succeed with
      bitbuf := Memory.writeFrom s.bitbuf 0 r.bytes
      encBitlen := BitVec.ofNat 32 r.total
      encBytelen := BitVec.ofNat 32 r.bytes.length }

/-- A failed ENCODE (R134, 60_exceptions.md R156): both result registers become 0 and no memory is written. -/
def State.failEncode (s : State) (c : Cause) (info : Word) : State :=
  { s.raise c info with encBitlen := 0, encBytelen := 0 }

/-- An ENCODE that raised a model fault (R135, 41_command_protocol.md R101): what it would have written is not said. The result registers hold
free values and no byte of BITBUF has a value; its inputs are never written (R136). -/
def State.faultEncode (s : State) (f : Fault) : State :=
  let r := Config.freeFinish s.fresh
  { s.engineFault f r with encBitlen := r.encBitlen, encBytelen := r.encBytelen, bitbuf := [] }

/-- ENCODE (R129). -/
def execEncode (s : State) : Host.Outcome State Fault Refusal :=
  .next (match s.encodeRun with
    | .ok r => s.commitEncode r
    | .error (.raise c info) => s.failEncode c info
    | .error (.fault f) => s.faultEncode f)

end Sys2Proof.Machine
end

