-- ==== Sys2Proof/Machine/Fetch.lean ====
section
/-! DEFINITION. What the next step is. The block fetches no instructions (10_state.md R16): the next transaction comes from the host and the
next command from `pending`. The schedule says which of the two agents moves next (00_scope.md R10, 20_memory.md R61); when it is empty the
engine finishes a pending command (41_command_protocol.md R99), and an idle block stays as it is (R96, 60_exceptions.md R167). -/

namespace Sys2Proof.Machine

/-- What a step does. -/
inductive Fetched where
  /-- run this instruction from this state -/
  | run (i : Instr) (s : State)
  /-- the step is over with this state: a reset, or no step of the engine -/
  | stay (s : State)
  /-- the scheduled word is no transaction -/
  | refuse (r : Refusal)

/-- The engine's step (R96, R100): run the pending command; with none pending there is no step. -/
def State.fetchCommand (s : State) : Fetched :=
  match s.pending with
  | none => .stay s
  | some w => .run (decodeCmd w) s

/-- The host's transaction (30_encoding.md R78). -/
def State.fetchTxn (s : State) (w : TxnWord) : Fetched :=
  match decodeTxn w with
  | .ok i => .run i s
  | .error _ => .refuse (.notATransaction w)

/-- The next step, with its entry taken off the schedule. -/
def State.fetch (s : State) : Fetched :=
  match s.schedule with
  | [] => s.fetchCommand
  | .engine :: rest => { s with schedule := rest }.fetchCommand
  | .txn w :: rest => { s with schedule := rest }.fetchTxn w
  | .reset :: rest => .stay { s with schedule := rest }.applyReset

/-- Place a word of the opcode table so that the next step runs it: a command word is accepted (R95) and the engine scheduled next; a
transaction word is scheduled next. This is how a host program comes to run: it is loaded into the schedule from outside (assumption log
2). -/
def State.placeWord (s : State) (nbits w : Nat) : State :=
  match codeOfTable nbits w with
  | .error _ => s
  | .ok (.cmd c) => { s.accept c with schedule := .engine :: s.schedule }
  | .ok (.txn t) => { s with schedule := .txn t :: s.schedule }

end Sys2Proof.Machine
end

