-- ==== Sys2Proof/Machine/Step.lean ====
section
/-! DEFINITION. One step of the machine: one host transaction, one engine step or one reset (00_scope.md R10, 70_reset_and_hazards.md R168). -/

namespace Sys2Proof.Machine

/-- The step: run what the fetch gives. -/
def step (s : State) : Host.Outcome State Fault Refusal :=
  match s.fetch with
  | .run i t => exec i t
  | .stay t => .next t
  | .refuse r => .refused r

/-- The state with the opcode table's word `w` of `nbits` bits placed where `step` takes its next instruction. -/
def State.withFetchWord (s : State) (nbits w : Nat) : State := s.placeWord nbits w

end Sys2Proof.Machine
end

