-- ==== Sys2Proof/Machine/TableCompiler.lean ====
section
/-! DEFINITION. The table compiler (42_table_compiler.md): the host-side reference function that builds the code tree of a symbol sequence and
the three images the host loads. It is no hardware and no step of the machine runs it (00_scope.md R3); it is here because the encoder's
bit-exact output depends on its choices. -/

namespace Sys2Proof.Machine

/-- The errors of the compiler (R107, R118). -/
inductive CompileError where
  | codeTooLong | invalidCount | invalidSymbol
deriving DecidableEq, Repr

/-- A code tree (R108): a leaf holds one symbol and its frequency, an internal node its zero-branch, its one-branch and their combined
frequency. -/
inductive CodeTree where
  | leaf (sym freq : Nat)
  | node (zero one : CodeTree) (freq : Nat)
deriving DecidableEq, Repr

/-- The frequency a node holds. -/
def CodeTree.freq : CodeTree → Nat
  | .leaf _ f => f
  | .node _ _ f => f

/-- `countFrequencies(seq)` (R106): each symbol that occurs, with its count, in symbol order. -/
def countFrequencies (seq : List Nat) : Memory Nat :=
  seq.foldl (fun table s => Memory.write table s ((Memory.read table s).getD 0 + 1)) []

/-- A tree in the builder's pool, with the `ord` of its key `(freq, ord)` (R109). -/
structure PoolEntry where
  ord : Nat
  tree : CodeTree
deriving DecidableEq, Repr

/-- The lexicographic order of the keys (R109). -/
def PoolEntry.before (e f : PoolEntry) : Bool :=
  e.tree.freq < f.tree.freq || (e.tree.freq == f.tree.freq && e.ord < f.ord)

/-- Put an entry into a pool kept in key order, so that the head is `extractMin` (R108). -/
def insertEntry (e : PoolEntry) : List PoolEntry → List PoolEntry
  | [] => [e]
  | f :: pool => if e.before f then e :: f :: pool else f :: insertEntry e pool

/-- The leaves of a frequency table, as a pool: a leaf's `ord` is its symbol (R108, R109). -/
def leafPool (table : List (Nat × Nat)) : List PoolEntry :=
  table.foldr (fun p pool => insertEntry { ord := p.1, tree := .leaf p.1 p.2 } pool) []

/-- The merge loop (R108): the two least entries become the zero-branch and the one-branch of a new node (R110), whose `ord` is
`ALPHABET + k` (R109). Every merge shortens the pool, so `bound` = its length is enough. -/
def mergeLoop (alphabet : Nat) : (bound k : Nat) → List PoolEntry → Option CodeTree
  | _, _, [] => none
  | _, _, [e] => some e.tree
  | 0, _, _ :: _ :: _ => none
  | bound + 1, k, a :: b :: pool =>
    mergeLoop alphabet bound (k + 1)
      (insertEntry { ord := alphabet + k, tree := .node a.tree b.tree (a.tree.freq + b.tree.freq) } pool)

/-- `buildTree(freq)` (R108, R111, R112); none is NoTree. -/
def buildTree (c : Config) (table : List (Nat × Nat)) : Option CodeTree :=
  mergeLoop c.alphabet table.length 0 (leafPool table)

/-- The depth-first traversal of R113: each leaf's symbol with the path that leads to it. -/
def CodeTree.paths : CodeTree → List Bool → List (Nat × List Bool)
  | .leaf s _, path => [(s, path)]
  | .node z o _, path => z.paths (path ++ [false]) ++ o.paths (path ++ [true])

/-- `generateCodes(tree)` (R113); a single leaf has the code "0" (R114). -/
def generateCodes : Option CodeTree → List (Nat × List Bool)
  | none => []
  | some (.leaf s _) => [(s, [false])]
  | some (.node z o f) => (CodeTree.node z o f).paths []

/-- A leaf's ROM word (R115). -/
def leafWord (sym : Nat) : Word := 0x80000000 ||| BitVec.ofNat 32 sym

/-- An internal node's ROM word, from its children's indices (R115). -/
def nodeWord (z o : Nat) : Word := (BitVec.ofNat 32 o <<< 16) ||| BitVec.ofNat 32 z

/-- `number(node)` (R115): the words of a subtree in preorder from ROM index `next` up, and the next index. The subtree's own index is
`next`. -/
def CodeTree.number : CodeTree → Nat → List Word × Nat
  | .leaf s _, next => ([leafWord s], next + 1)
  | .node z o _, next =>
    let (zs, mid) := z.number (next + 1)
    let (os, stop) := o.number mid
    (nodeWord (next + 1) mid :: (zs ++ os), stop)

/-- The first `n` bits of code word `w` of a code, as a number; bits past the code are 0 (R116). -/
def leftBits (code : List Bool) (w : Nat) : Nat → Nat
  | 0 => 0
  | n + 1 => 2 * leftBits code w n + (code.getD (32 * w + n) false).toNat

/-- Code word `w` of a code, left-justified (R116, 30_encoding.md R68). -/
def leftWord (code : List Bool) (w : Nat) : Word := BitVec.ofNat 32 (leftBits code w 32)

/-- The header of a code of `len` bits (R116). -/
def headerWord (len : Nat) : Word := 0x80000000 ||| BitVec.ofNat 32 len

/-- The code words of a code (R116). -/
def codeWordsOf (code : List Bool) : List Word :=
  (List.range (ceilDiv code.length 32)).map (leftWord code)

/-- One entry of the LUT image (R116). -/
structure LutEntry where
  sym : Nat
  header : Word
  words : List Word
deriving DecidableEq, Repr

/-- The code of a symbol in a code table, if it has one. -/
def codeFor (codes : List (Nat × List Bool)) (s : Nat) : Option (List Bool) :=
  (codes.find? (fun p => p.1 == s)).map Prod.snd

/-- The LUT image's entry of one symbol (R116). -/
def lutEntry (codes : List (Nat × List Bool)) (s : Nat) : LutEntry :=
  match codeFor codes s with
  | some code => { sym := s, header := headerWord code.length, words := codeWordsOf code }
  | none => { sym := s, header := 0, words := [] }

/-- The images the host loads (R105). -/
structure Images where
  lut : List LutEntry
  rom : List Word
  treeCfg : Word
deriving DecidableEq, Repr

/-- The ROM image of a tree (R115). -/
def romImage : Option CodeTree → List Word
  | none => []
  | some t => (t.number 0).1

/-- The TREE_CFG image (R117). -/
def treeCfgImage : Option CodeTree → Word
  | none => 0x00000000
  | some _ => 0x80000000

/-- `images(tree, codes)` (R115 to R117). -/
def imagesOf (c : Config) (tree : Option CodeTree) : Images where
  lut := (List.range c.alphabet).map (lutEntry (generateCodes tree))
  rom := romImage tree
  treeCfg := treeCfgImage tree

/-- The compiler from a well-formed frequency table on (R105), with its length check (R118). -/
def compileTable (c : Config) (table : List (Nat × Nat)) : Except CompileError Images :=
  let tree := buildTree c table
  if (generateCodes tree).any (fun p => c.maxLen < p.2.length) then .error .codeTooLong
  else .ok (imagesOf c tree)

/-- `compile(seq)` (R105), for symbols in `0 .. ALPHABET-1`. -/
def compile (c : Config) (seq : List Nat) : Except CompileError Images := compileTable c (countFrequencies seq)

/-- `compileFreq(table)` (R105, R107): a table with a count `<= 0` or a symbol outside `0 .. ALPHABET-1` is rejected, the counts first
(assumption log 10). -/
def compileFreq (c : Config) (table : List (Int × Int)) : Except CompileError Images :=
  if table.any (fun p => p.2 ≤ 0) then .error .invalidCount
  else if table.any (fun p => p.1 < 0 || (c.alphabet : Int) ≤ p.1) then .error .invalidSymbol
  else compileTable c (table.map (fun p => (p.1.toNat, p.2.toNat)))

end Sys2Proof.Machine
end

