-- ==== Sys2Proof/Machine/HostProgram.lean ====
section
/-! DEFINITION. The host's notation for its programs (30_encoding.md R76, R77): each line as the transaction words it stands for, and the
program that loads the images of the table compiler (42_table_compiler.md R117). -/

namespace Sys2Proof.Machine

/-- `RD` of a named location (R76). -/
def rdLoc (l : Loc) : TxnWord := txnWord false l.addr 0

/-- `WR` of a named location (R76). -/
def wrLoc (l : Loc) (data : Word) : TxnWord := txnWord true l.addr data

/-- A line of a host program (R76, R77). -/
inductive Line where
  | rd (addr : Addr)
  | wr (addr : Addr) (data : Word)
  | nop
  | encode
  | decode
  | clearLut
  /-- the host's own loop: `busyPolls` reads of STATUS that saw BUSY = 1, and the one that did not -/
  | wait (busyPolls : Nat)
  | ack
  | ldlut (s : Nat) (len : Nat) (code : List Bool)
  | ldrom (i : Nat) (v : Word)
  | ldsym (i : Nat) (v : Word)
  | ldbyte (i : Nat) (v : Word)
deriving DecidableEq, Repr

/-- The transaction words of a line (R77). -/
def Line.expand : Line → List TxnWord
  | .rd a => [txnWord false a 0]
  | .wr a d => [txnWord true a d]
  | .nop => [wrLoc (.reg .cmd) 0x00]
  | .encode => [wrLoc (.reg .cmd) 0x01]
  | .decode => [wrLoc (.reg .cmd) 0x02]
  | .clearLut => [wrLoc (.reg .cmd) 0x03]
  | .wait busyPolls => List.replicate (busyPolls + 1) (rdLoc (.reg .status))
  | .ack => [wrLoc (.reg .status) 0x00000300]
  | .ldlut s len code =>
    wrLoc (.lutHeader s) (headerWord len) ::
      (List.range (ceilDiv len 32)).map (fun w => wrLoc (.lutWord s w) (leftWord code w))
  | .ldrom i v => [wrLoc (.rom i) v]
  | .ldsym i v => [wrLoc (.symbuf i) v]
  | .ldbyte i v => [wrLoc (.bitbuf i) v]

/-- The transaction words of a host program. -/
def programWords (lines : List Line) : List TxnWord := lines.flatMap Line.expand

/-- The host's transactions of a schedule, in order: the program it interleaves with the engine's steps (20_memory.md R61). -/
def hostWords (schedule : List Event) : List TxnWord :=
  schedule.filterMap (fun e => match e with
    | .txn w => some w
    | .engine => none
    | .reset => none)

/-- The writes that load one LUT entry: its header, then its code words (R117). -/
def LutEntry.load (e : LutEntry) : List TxnWord :=
  wrLoc (.lutHeader e.sym) e.header ::
    e.words.zipIdx.map (fun p => wrLoc (.lutWord e.sym p.2) p.1)

/-- The writes that load the ROM and TREE_CFG images (R117, steps 3 and 4). -/
def Images.loadTree (im : Images) : List TxnWord :=
  im.rom.zipIdx.map (fun p => wrLoc (.rom p.2) p.1) ++ [wrLoc (.reg .treeCfg) im.treeCfg]

/-- The program that loads the images, every header among them (R117, the first form of step 1). -/
def Images.load (im : Images) : List TxnWord := im.lut.flatMap LutEntry.load ++ im.loadTree

/-- The entry gives its symbol a code: V of its header is 1. -/
def LutEntry.valid (e : LutEntry) : Bool := (LutHeader.ofWord e.header).v

/-- The program that issues CLEAR_LUT, waits for it and then writes the headers with V = 1 only (R117, the second form of step 1). The wait
reads STATUS `busyPolls` times while BUSY = 1 and once after (30_encoding.md R77). -/
def Images.loadCleared (im : Images) (busyPolls : Nat) : List TxnWord :=
  programWords [.clearLut, .wait busyPolls] ++ (im.lut.filter LutEntry.valid).flatMap LutEntry.load ++ im.loadTree

end Sys2Proof.Machine
end

