-- ==== Sys2Proof/Safety.lean ====
section
/-! DEFINITION. What counts as a good run, and the invariant of the machine. A good final state is reached by a run with no model fault in it
(10_state.md R43, 40_host_bus.md R94); `State.wf` is what every step keeps. -/

namespace Sys2Proof.Machine

/-- No model fault has been raised since reset (R43). -/
def State.faultFree (s : State) : Prop := s.modelFault = none

/-- The host program has ended (40_host_bus.md R94): the host has issued its last transaction and no command is pending. Turns of the engine
and resets may still be scheduled; they are no transactions. -/
def State.ended (s : State) : Prop := hostWords s.schedule = [] ∧ s.pending = none

/-- `k` steps lead from `s` to `t`, the first state in which the host program has ended, through states without a model fault: a reset in the
run does not undo a model fault before it (R94: "A run that reached `modelFault` is never a good final state"). DESIGN CHOICE (assumption log
14): R94 says nothing of a reset during the run, and here a reset is a step like any other, so a run whose pending command a reset abandons
can still end well. -/
def State.goodRun : (k : Nat) → (s t : State) → Prop
  | 0, s, t => s = t ∧ s.faultFree ∧ s.ended
  | k + 1, s, t => s.faultFree ∧ ¬ s.ended ∧ ∃ u, step s = .next u ∧ State.goodRun k u t

/-- `t` is the good final state of the run from `s` (R94). -/
def State.goodFinal (s t : State) : Prop := ∃ k, State.goodRun k s t

/-- The LUT in its canonical form and within its bounds (10_state.md R35, R36). -/
def State.lutWf (s : State) : Prop :=
  Memory.wf s.lutHdr ∧ Memory.noZeroHeader s.lutHdr ∧ (∀ p ∈ s.lutHdr, p.1 < s.cfg.alphabet) ∧
  Memory.wf s.lutCode ∧ (∀ p ∈ s.lutCode, p.1 / 16 < s.cfg.alphabet ∧ p.1 % 16 < s.cfg.codeWords)

/-- The ROM and the buffers in their canonical form and within their bounds (R37 to R39); a stored symbol is `SYM_W` bits wide. -/
def State.bufWf (s : State) : Prop :=
  Memory.wf s.rom ∧ (∀ p ∈ s.rom, p.1 < s.cfg.nodes) ∧
  Memory.wf s.symbuf ∧ (∀ p ∈ s.symbuf, p.1 < s.cfg.symCap ∧ p.2.toNat < s.cfg.alphabet) ∧
  Memory.wf s.bitbuf ∧ (∀ p ∈ s.bitbuf, p.1 < s.cfg.byteCap)

/-- While a command is pending no result of it is recorded (10_state.md R26, R28; 70_reset_and_hazards.md R178). -/
def State.busyWf (s : State) : Prop :=
  s.pending ≠ none → s.done = false ∧ s.fail = false ∧ s.cause = .none ∧ s.errInfo = 0

/-- The failure record is consistent (10_state.md R26, R28; 60_exceptions.md R153). -/
def State.recordWf (s : State) : Prop :=
  (s.fail = true ↔ s.cause ≠ .none) ∧ (s.fail = true → s.done = true) ∧ (s.cause = .none → s.errInfo = 0)

/-- The result registers are consistent (10_state.md R30, R33; 44_encoder.md R132). -/
def State.resultWf (s : State) : Prop :=
  s.encBytelen.toNat = ceilDiv s.encBitlen.toNat 8 ∧ s.encBitlen.toNat ≤ 8 * s.cfg.byteCap ∧
  s.decBitsUsed.toNat ≤ 8 * s.cfg.byteCap

/-- The invariant of the machine. What the registers record is claimed only while no model fault has been raised (60_exceptions.md R166:
"Every claim takes "no model fault" as a premise"). -/
def State.wf (s : State) : Prop :=
  s.cfg.wf ∧ s.lutWf ∧ s.bufWf ∧ s.busyWf ∧ (s.faultFree → s.recordWf ∧ s.resultWf)

end Sys2Proof.Machine
end

