-- ==== Sys2Proof/Certificates/Slice0/Obligations.lean ====
section
/-! DEFINITION. The statements for the provers. Each docstring names the rules of the spec that it formalises; the helper predicates say in the
spec's own terms what a statement needs to name (a symbol's code, a bit of the stream, a path in the tree). -/

namespace Sys2Proof.Claims

open Sys2Proof.Machine

/-- The state a command leaves that succeeded and wrote nothing else (41_command_protocol.md R101). The ports stay as they were: assumption log 5. -/
def succeeded (s : State) : State :=
  { s with pending := none, done := true, fail := false, cause := .none, errInfo := 0 }

/-- The state a command leaves that failed and wrote nothing else (41_command_protocol.md R101). The ports stay as they were: assumption log 5. -/
def failed (s : State) (c : Cause) (info : Word) : State :=
  { s with pending := none, done := true, fail := true, cause := c, errInfo := info }

/-- The state an ENCODE leaves that failed (44_encoder.md R134). -/
def encodeFailed (s : State) (c : Cause) (info : Word) : State :=
  { failed s c info with encBitlen := 0, encBytelen := 0 }

/-- The state a DECODE leaves that failed (45_decoder.md R149). -/
def decodeFailed (s : State) (c : Cause) (info : Word) : State :=
  { failed s c info with decBitsUsed := 0 }

/-- Bit position `p` of the stream is written and holds `b`: bit `7 - (p mod 8)` of byte `p div 8` (20_memory.md R48). -/
def BitAt (m : Memory Byte) (p : Nat) (b : Bool) : Prop :=
  ∃ v, Memory.read m (p / 8) = some v ∧ v.getLsbD (7 - p % 8) = b

/-- The header of symbol `x` is usable (30_encoding.md R81). -/
def Usable (s : State) (x : Sym) : Prop :=
  (s.lutHeader x.toNat).v = true ∧ 1 ≤ (s.lutHeader x.toNat).len.toNat ∧ (s.lutHeader x.toNat).len.toNat ≤ s.cfg.maxLen

/-- The LUT gives symbol `x` the code `c`: the header is usable, LEN is the code's length, and bit `j` of the code is bit `31 - (j mod 32)` of
the written code word `j div 32` (30_encoding.md R72). -/
def HasCode (s : State) (x : Sym) (c : List Bool) : Prop :=
  Usable s x ∧ (s.lutHeader x.toNat).len.toNat = c.length ∧
  ∀ j, j < c.length →
    ∃ w, Memory.read s.lutCode (lutCodeIndex x.toNat (j / 32)) = some w ∧ w.getLsbD (31 - j % 32) = c.getD j false

/-- SYMBUF holds the symbols `xs` from index 0. -/
def SymbufHolds (s : State) (xs : List Sym) : Prop :=
  ∀ i, i < xs.length → Memory.read s.symbuf i = xs[i]?

/-- The bits of the stream from position 0 are `bits`. -/
def StreamHolds (s : State) (bits : List Bool) : Prop :=
  ∀ p, p < bits.length → BitAt s.bitbuf p (bits.getD p false)

/-- From node `cur`, the bits lead over written, in-range, internal nodes to node `stop` (45_decoder.md R145). -/
def InternalPath (s : State) : NodeIx → List Bool → NodeIx → Prop
  | cur, [], stop => cur = stop
  | cur, b :: bits, stop =>
    ∃ node child, Memory.read s.rom cur.toNat = some node ∧ (node.child b).toNat < s.cfg.nodes ∧
      Memory.read s.rom (node.child b).toNat = some child ∧ child.leaf = false ∧ InternalPath s (node.child b) bits stop

/-- From node `cur`, the bits lead over internal nodes to a leaf of symbol `x`, which the last bit reaches (45_decoder.md R145). -/
def LeafPath (s : State) (cur : NodeIx) (bits : List Bool) (x : Sym) : Prop :=
  ∃ front b stop node child, bits = front ++ [b] ∧ InternalPath s cur front stop ∧
    Memory.read s.rom stop.toNat = some node ∧ (node.child b).toNat < s.cfg.nodes ∧
    Memory.read s.rom (node.child b).toNat = some child ∧ child.leaf = true ∧ child.sym s.cfg = x

/-- What a DECODE that walks needs of the registers: the counts in range, at least one symbol asked for, a tree, and an internal root
(45_decoder.md R140). -/
def WalkReady (s : State) : Prop :=
  1 ≤ s.decNsym.toNat ∧ s.decNsym.toNat ≤ s.cfg.symCap ∧ s.decNbits.toNat ≤ 8 * s.cfg.byteCap ∧ s.treeValid = true ∧
  s.treeRoot.toNat < s.cfg.nodes ∧ ∃ root, Memory.read s.rom s.treeRoot.toNat = some root ∧ root.leaf = false

/-- The offsets of the registers (10_state.md R18). -/
def registerOffsets : List Nat :=
  [0x000, 0x004, 0x008, 0x010, 0x014, 0x018, 0x020, 0x024, 0x028, 0x030, 0x034, 0x038, 0x040]

/-- The offsets of the read-only registers (R18; 40_host_bus.md R87). -/
def readOnlyOffsets : List Nat := [0x000, 0x004, 0x008, 0x018, 0x024, 0x028, 0x038]

/-- The offsets of the RW registers (R18). -/
def rwOffsets : List Nat := [0x020, 0x030, 0x034, 0x040]

/-- An aligned byte address that is unmapped (20_memory.md R49, R55 to R59). -/
def Unmapped (c : Config) (a : Nat) : Prop :=
  (a < 0x100 ∧ a ∉ registerOffsets) ∨ (0x100 ≤ a ∧ a < 0x10000) ∨
  (0x10000 ≤ a ∧ a < 0x20000 ∧ (c.alphabet ≤ (a - 0x10000) / 64 ∨ c.codeWords < (a - 0x10000) / 4 % 16)) ∨
  (0x20000 ≤ a ∧ a < 0x30000 ∧ c.nodes ≤ (a - 0x20000) / 4) ∨
  (0x30000 ≤ a ∧ a < 0x40000 ∧ c.symCap ≤ (a - 0x30000) / 4) ∨
  (0x40000 ≤ a ∧ a < 0x50000 ∧ c.byteCap ≤ (a - 0x40000) / 4) ∨ 0x50000 ≤ a

/-- A byte address inside one of the four windows (R49). -/
def InWindow (a : Nat) : Prop := 0x10000 ≤ a ∧ a < 0x50000

/-- A read of this address is a bus error (20_memory.md R52). -/
def BadRead (s : State) (a : Nat) : Prop :=
  a % 4 ≠ 0 ∨ Unmapped s.cfg a ∨ (s.pending ≠ none ∧ InWindow a)

/-- A write to this address is a bus error (R52). -/
def BadWrite (s : State) (a : Nat) : Prop :=
  a % 4 ≠ 0 ∨ Unmapped s.cfg a ∨ a ∈ readOnlyOffsets ∨ (s.pending ≠ none ∧ (InWindow a ∨ a ∈ rwOffsets))

/-- The location is a window cell of the configuration, at this byte address (R49, R55 to R58). -/
def CellAt (c : Config) (a : Nat) : Loc → Prop
  | .reg _ => False
  | .lutHeader sym => sym < c.alphabet ∧ a = 0x10000 + 64 * sym
  | .lutWord sym w => sym < c.alphabet ∧ w < c.codeWords ∧ a = 0x10000 + 64 * sym + 4 * (w + 1)
  | .rom i => i < c.nodes ∧ a = 0x20000 + 4 * i
  | .symbuf i => i < c.symCap ∧ a = 0x30000 + 4 * i
  | .bitbuf i => i < c.byteCap ∧ a = 0x40000 + 4 * i

/-- The word a window cell holds, as a read shows it (40_host_bus.md R85); none where the cell is unwritten. -/
def cellWord (s : State) : Loc → Option Word
  | .reg _ => none
  | .lutHeader sym => some (BitVec.ofBool (s.lutHeader sym).v ++ (0 : BitVec 23) ++ (s.lutHeader sym).len)
  | .lutWord sym w => Memory.read s.lutCode (lutCodeIndex sym w)
  | .rom i => (Memory.read s.rom i).map fun n => BitVec.ofBool n.leaf ++ (0 : BitVec 6) ++ n.b ++ (0 : BitVec 7) ++ n.a
  | .symbuf i => (Memory.read s.symbuf i).map fun x => (0 : BitVec 24) ++ x
  | .bitbuf i => (Memory.read s.bitbuf i).map fun v => (0 : BitVec 24) ++ v

/-- What a window cell reads after a write of `data` (20_memory.md R55 to R58): the stored fields, every dropped bit 0. -/
def storedWord (c : Config) (data : Word) : Loc → Word
  | .reg _ => data
  | .lutHeader _ => data &&& 0x800000FF
  | .lutWord _ _ => data
  | .rom _ => data &&& 0x81FF01FF
  | .symbuf _ => BitVec.ofNat 32 (data.toNat % 2 ^ c.symW)
  | .bitbuf _ => data &&& 0x000000FF

/-- The model's name of a window cell that can be unwritten (60_exceptions.md R166). -/
def cellName : Loc → Option Cell
  | .reg _ => none
  | .lutHeader _ => none
  | .lutWord sym w => some (.lutc sym w)
  | .rom i => some (.rom i)
  | .symbuf i => some (.symbuf i)
  | .bitbuf i => some (.bitbuf i)

/-- No command's operand, result or memory differs between the two states (41_command_protocol.md R98). -/
def SameOperands (s t : State) : Prop :=
  t.cfg = s.cfg ∧ t.encNsym = s.encNsym ∧ t.decNsym = s.decNsym ∧ t.decNbits = s.decNbits ∧ t.treeValid = s.treeValid ∧
  t.treeRoot = s.treeRoot ∧ t.lutHdr = s.lutHdr ∧ t.lutCode = s.lutCode ∧ t.rom = s.rom ∧ t.symbuf = s.symbuf ∧ t.bitbuf = s.bitbuf

/-- The LUT holds the LUT image, loaded in either form of step 1 (42_table_compiler.md R116, R117): an entry with a code has its header and its
code words; an entry without one has V = 0, and its LEN may be an older one, which CLEAR_LUT keeps (41_command_protocol.md R103). -/
def LutLoaded (s : State) (im : Images) : Prop :=
  ∀ e ∈ im.lut, (s.lutHeader e.sym).v = e.valid ∧
    (e.valid = true → s.lutHeader e.sym = LutHeader.ofWord e.header ∧
      ∀ w, w < e.words.length → Memory.read s.lutCode (lutCodeIndex e.sym w) = e.words[w]?)

/-- The ROM and TREE_CFG hold their images (R115, R117). -/
def TreeLoaded (s : State) (im : Images) : Prop :=
  (∀ i, i < im.rom.length → Memory.read s.rom i = (im.rom[i]?).map Node.ofWord) ∧
  s.treeValid = im.treeCfg.getLsbD 31 ∧ s.treeRoot = im.treeCfg.extractLsb' 0 9

/-- The codes the compiler gives the symbols of a sequence (R105, R113). -/
def compiledCodes (c : Config) (seq : List Nat) : List (Nat × List Bool) :=
  generateCodes (buildTree c (countFrequencies seq))

/-- The number of bits of the encoded sequence: the sum of its symbols' code lengths (44_encoder.md R138). -/
def codedLength (c : Config) (seq : List Nat) : Nat :=
  (seq.map fun x => ((codeFor (compiledCodes c seq) x).getD []).length).sum

/-- A symbol sequence of the alphabet (R105). -/
def InAlphabet (c : Config) (seq : List Nat) : Prop := ∀ x ∈ seq, x < c.alphabet

end Sys2Proof.Claims

open Sys2Proof Sys2Proof.Machine Sys2Proof.Claims

/-! ## Encoding -/

/-- 30_encoding.md R66, R78, R79: words written out from the spec's encodings decode to the instructions they stand for. The transaction words
are those of 95_test_vectors.md P1 (lines 1, 23, 24). -/
def Obligations.SampleWordsDecode : Prop :=
  decodeTableWord 32 0x00000000 = some .nop ∧ decodeTableWord 32 0x00000001 = some .encode ∧
  decodeTableWord 32 0x00000002 = some .decode ∧ decodeTableWord 32 0x00000003 = some .clearLut ∧
  decodeTableWord 32 0x00000101 = some (.badCmd 0x00000101) ∧
  decodeTableWord 64 0x8001104080000001 = some (.wr 0x11040 0x80000001) ∧
  decodeTableWord 64 0x8000001000000001 = some (.wr 0x00010 0x00000001) ∧
  decodeTableWord 64 0x0000001400000000 = some (.rd 0x00014)

/-- 30_encoding.md R66, R67, R78: decoding the words of a well-formed instruction gives it back, with every operand at every value. -/
def Obligations.DecodeInvertsEncode : Prop :=
  ∀ i : Instr, i.wf = true → decodeCode (encode i) = .ok i

/-- 30_encoding.md R78, R79: a word has one meaning: whatever the decoder accepts is well-formed and encodes to the same word. -/
def Obligations.EncodeInvertsDecode : Prop :=
  ∀ (c : Code) (i : Instr), decodeCode c = .ok i → i.wf = true ∧ encode i = c

/-- 30_encoding.md R78: a word with nonzero must-be-zero bits is not a transaction; it is refused and never reaches the block. -/
def Obligations.NonTransactionWordIsRefused : Prop :=
  ∀ (s : State) (w : TxnWord) (rest : List Event), s.schedule = .txn w :: rest →
    (w.extractLsb' 51 12 ≠ 0 ∨ (w.getLsbD 63 = false ∧ w.extractLsb' 0 32 ≠ 0)) →
    step s = .refused (.notATransaction w)

/-! ## The step -/

/-- 20_memory.md R61: a step whose turn is the host's runs the transaction that its word decodes to, with the word taken off the schedule. -/
def Obligations.StepRunsScheduledTransaction : Prop :=
  ∀ (s : State) (w : TxnWord) (rest : List Event) (i : Instr), s.schedule = .txn w :: rest → decodeCode (.txn w) = .ok i →
    step s = exec i { s with schedule := rest }

/-- 41_command_protocol.md R96, R99, R100: a step whose turn is the engine's, and a step with nothing scheduled, run the pending command. -/
def Obligations.StepRunsPendingCommand : Prop :=
  ∀ (s : State) (w : Word) (i : Instr), s.pending = some w → decodeCode (.cmd w) = .ok i →
    (∀ rest, s.schedule = .engine :: rest → step s = exec i { s with schedule := rest }) ∧
    (s.schedule = [] → step s = exec i s)

/-- 41_command_protocol.md R96, 60_exceptions.md R167: with no command pending the engine has no step, and an idle block with nothing scheduled
keeps all its state (that such a step stays is the model's choice, assumption log 2). -/
def Obligations.IdleBlockKeepsItsState : Prop :=
  ∀ s : State, s.pending = none →
    (∀ rest, s.schedule = .engine :: rest → step s = .next { s with schedule := rest }) ∧ (s.schedule = [] → step s = .next s)

/-- 30_encoding.md R79, 41_command_protocol.md R95, R96: a placed command word is the next instruction that a step runs, from the state that
accepting it leaves. -/
def Obligations.PlacedCommandWordRunsNext : Prop :=
  ∀ (s : State) (w : Nat) (i : Instr), decodeTableWord 32 w = some i →
    step (s.withFetchWord 32 w) = exec i { s with pending := some (BitVec.ofNat 32 w), done := false, fail := false, cause := .none, errInfo := 0 }

/-- 30_encoding.md R78: a placed transaction word is the next instruction that a step runs. -/
def Obligations.PlacedTransactionWordRunsNext : Prop :=
  ∀ (s : State) (w : Nat) (i : Instr), decodeTableWord 64 w = some i → step (s.withFetchWord 64 w) = exec i s

/-- 70_reset_and_hazards.md R168: one reset puts every register, flag and memory in its reset state, abandons a pending command and clears the
model fault; the configuration is no state of the block. The ports' values and the fields of the model's own are the model's choice
(assumption log 5 and 6). -/
def Obligations.ResetStepResets : Prop :=
  ∀ (s : State) (rest : List Event), s.schedule = .reset :: rest →
    step s = .next { State.reset with cfg := s.cfg, fresh := s.fresh, schedule := rest }

/-- 10_state.md R45: after reset every register reads the value of the table, no header is valid, no other cell is written, nothing is pending
and there is no model fault. -/
def Obligations.ResetStateReadsAsStated : Prop :=
  ∀ (s : State) (rest : List Event), s.schedule = .reset :: rest → ∃ t, step s = .next t ∧
    t.regValue .id = 0x48554646 ∧
    t.regValue .param = (0x00 : BitVec 8) ++ (0x01 : BitVec 8) ++ BitVec.ofNat 8 s.cfg.maxLen ++ (0x0 : BitVec 4) ++ BitVec.ofNat 4 s.cfg.symW ∧
    t.regValue .caps = BitVec.ofNat 16 s.cfg.byteCap ++ BitVec.ofNat 16 s.cfg.symCap ∧
    t.regValue .status = 0 ∧ t.regValue .errInfo = 0 ∧ t.regValue .encNsym = 0 ∧ t.regValue .encBitlen = 0 ∧
    t.regValue .encBytelen = 0 ∧ t.regValue .decNsym = 0 ∧ t.regValue .decNbits = 0 ∧ t.regValue .decBitsUsed = 0 ∧
    t.regValue .treeCfg = 0 ∧ t.pending = none ∧ t.modelFault = none ∧
    (∀ sym, t.lutHeader sym = { v := false, len := 0 }) ∧ (∀ k, Memory.read t.lutCode k = none) ∧
    (∀ k, Memory.read t.rom k = none) ∧ (∀ k, Memory.read t.symbuf k = none) ∧ (∀ k, Memory.read t.bitbuf k = none)

/-! ## The invariant -/

/-- The reset state meets the invariant. -/
def Obligations.ResetMeetsTheInvariant : Prop := State.reset.wf

/-- Every step keeps the invariant: memories stay canonical and inside their bounds, a busy block has no result recorded, and while no model
fault has been raised the failure record and the result registers are consistent (10_state.md R25 to R39). -/
def Obligations.StepKeepsTheInvariant : Prop :=
  ∀ s t : State, s.wf → step s = .next t → t.wf

/-- 10_state.md R43: the model fault is set once and never cleared, except by reset. That the same fault is kept, and a later one does not replace
it, is DEDUCED from R43's "set once" (assumption log 8). -/
def Obligations.ModelFaultIsSticky : Prop :=
  ∀ (s t : State) (f : Fault), s.modelFault = some f → step s = .next t →
    (t.modelFault = some f ∨ ∃ rest, s.schedule = .reset :: rest)

/-! ## RD -/

/-- 40_host_bus.md R84: what a read of STATUS returns, bit by bit, whatever the value of BUSY. -/
def Obligations.StatusReadsItsFlags : Prop :=
  ∀ s : State, ∃ v : Word, exec (.rd 0x00014) s = .next { s with rdata := v, err := false } ∧
    v.getLsbD 0 = s.pending.isSome ∧ v.getLsbD 1 = s.done ∧ v.getLsbD 2 = s.fail ∧ v.extractLsb' 3 5 = 0 ∧
    v.getLsbD 8 = s.ovr ∧ v.getLsbD 9 = s.busErr ∧ v.extractLsb' 10 6 = 0 ∧ v.extractLsb' 16 8 = s.cause.code ∧ v.extractLsb' 24 8 = 0

/-- 40_host_bus.md R83: a read of a register returns its fields at their bits, reserved bits 0, and changes nothing else, while BUSY = 0 and
while BUSY = 1. -/
def Obligations.RdReturnsTheRegister : Prop :=
  ∀ s : State,
    exec (.rd 0x00000) s = .next { s with rdata := 0x48554646, err := false } ∧
    exec (.rd 0x00004) s = .next { s with err := false, rdata :=
      (0x00 : BitVec 8) ++ (0x01 : BitVec 8) ++ BitVec.ofNat 8 s.cfg.maxLen ++ (0x0 : BitVec 4) ++ BitVec.ofNat 4 s.cfg.symW } ∧
    exec (.rd 0x00008) s = .next { s with rdata := BitVec.ofNat 16 s.cfg.byteCap ++ BitVec.ofNat 16 s.cfg.symCap, err := false } ∧
    exec (.rd 0x00010) s = .next { s with rdata := 0, err := false } ∧
    exec (.rd 0x00014) s = .next { s with
      err := false
      rdata := (0 : BitVec 8) ++ s.cause.code ++ (0 : BitVec 6) ++ BitVec.ofBool s.busErr ++ BitVec.ofBool s.ovr ++
        (0 : BitVec 5) ++ BitVec.ofBool s.fail ++ BitVec.ofBool s.done ++ BitVec.ofBool s.pending.isSome } ∧
    exec (.rd 0x00018) s = .next { s with rdata := s.errInfo, err := false } ∧
    exec (.rd 0x00020) s = .next { s with rdata := (0 : BitVec 17) ++ s.encNsym, err := false } ∧
    exec (.rd 0x00024) s = .next { s with rdata := s.encBitlen, err := false } ∧
    exec (.rd 0x00028) s = .next { s with rdata := s.encBytelen, err := false } ∧
    exec (.rd 0x00030) s = .next { s with rdata := (0 : BitVec 17) ++ s.decNsym, err := false } ∧
    exec (.rd 0x00034) s = .next { s with rdata := (0 : BitVec 14) ++ s.decNbits, err := false } ∧
    exec (.rd 0x00038) s = .next { s with rdata := s.decBitsUsed, err := false } ∧
    exec (.rd 0x00040) s = .next { s with rdata := BitVec.ofBool s.treeValid ++ (0 : BitVec 22) ++ s.treeRoot, err := false }

/-- 40_host_bus.md R85: with BUSY = 0, a read of a window cell that holds a value returns it at its bits and changes nothing else. -/
def Obligations.RdReturnsTheCell : Prop :=
  ∀ (s : State) (a : Addr) (l : Loc) (v : Word), s.cfg.wf → s.pending = none → CellAt s.cfg a.toNat l → cellWord s l = some v →
    exec (.rd a) s = .next { s with rdata := v, err := false }

/-- 40_host_bus.md R86: with BUSY = 0, a read of an unwritten cell sets the model fault to UNINIT_READ of that cell, STATUS does not change, and the
returned value is left open. That a model fault set already is kept is DEDUCED from 10_state.md R43 ("set once"; assumption log 8). That the
machine goes on with a free value, and the counter it advances, are the model's choice (assumption log 3). -/
def Obligations.RdOfAnUnwrittenCellFaults : Prop :=
  ∀ (s : State) (a : Addr) (l : Loc), s.cfg.wf → s.pending = none → CellAt s.cfg a.toNat l → cellWord s l = none →
    ∃ (v : Word) (c : Cell), cellName l = some c ∧
      exec (.rd a) s = .next { s with
        rdata := v, err := false, fresh := s.fresh + 1, modelFault := some (s.modelFault.getD (.uninitRead c)) }

/-- 20_memory.md R52: a misaligned or unmapped address, a write of a read-only register, and an access refused because BUSY = 1 are bus errors: a
read returns 0, a write changes no register and no cell, BUSERR is set, `err` is 1 and nothing else changes. -/
def Obligations.BusErrorsOnlySetBuserr : Prop :=
  ∀ (s : State) (a : Addr) (d : Word), s.cfg.wf →
    (BadRead s a.toNat → exec (.rd a) s = .next { s with rdata := 0, busErr := true, err := true }) ∧
    (BadWrite s a.toNat → ∃ v, exec (.wr a d) s = .next { s with busErr := true, err := true, rdata := v })

/-- 20_memory.md R53, R52: a read changes nothing but the ports, BUSERR on a bus error, and the model's record of an unwritten cell. -/
def Obligations.RdChangesNoState : Prop :=
  ∀ (s t : State) (a : Addr), exec (.rd a) s = .next t →
    t = { s with rdata := t.rdata, err := t.err, busErr := s.busErr || t.err, modelFault := t.modelFault, fresh := t.fresh } ∧
    (t.err = true → t.rdata = 0 ∧ t.modelFault = s.modelFault ∧ t.fresh = s.fresh)

/-! ## WR

A write returns no read data, and the spec says nothing of the `rdata` port then: these statements leave its value open. -/

/-- 40_host_bus.md R88: with BUSY = 0 a write of an RW register stores its fields and drops the reserved bits; nothing else changes. -/
def Obligations.WrStoresTheRwRegister : Prop :=
  ∀ (s : State) (d : Word), s.pending = none →
    (∃ v, exec (.wr 0x00020 d) s = .next { s with encNsym := d.extractLsb' 0 15, err := false, rdata := v }) ∧
    (∃ v, exec (.wr 0x00030 d) s = .next { s with decNsym := d.extractLsb' 0 15, err := false, rdata := v }) ∧
    (∃ v, exec (.wr 0x00034 d) s = .next { s with decNbits := d.extractLsb' 0 18, err := false, rdata := v }) ∧
    (∃ v, exec (.wr 0x00040 d) s = .next { s with
      treeValid := d.getLsbD 31, treeRoot := d.extractLsb' 0 9, err := false, rdata := v })

/-- 40_host_bus.md R89: a STATUS write clears OVR where bit 8 is 1 and BUSERR where bit 9 is 1, whatever the value of BUSY; no other bit matters
and nothing else changes. -/
def Obligations.WrStatusClearsStickyBits : Prop :=
  ∀ (s : State) (d : Word), ∃ v, exec (.wr 0x00014 d) s = .next { s with
    ovr := if d.getLsbD 8 then false else s.ovr, busErr := if d.getLsbD 9 then false else s.busErr, err := false, rdata := v }

/-- 41_command_protocol.md R95: a CMD write with no command pending is accepted; every word is. -/
def Obligations.WrCmdIsAccepted : Prop :=
  ∀ (s : State) (w : Word), s.pending = none → ∃ v, exec (.wr 0x00010 w) s = .next { s with
    pending := some w, done := false, fail := false, cause := .none, errInfo := 0, err := false, rdata := v }

/-- 41_command_protocol.md R97: a CMD write while a command is pending sets OVR and changes nothing else; the word is lost. -/
def Obligations.WrCmdWhileBusyIsLost : Prop :=
  ∀ (s : State) (w p : Word), s.pending = some p →
    ∃ v, exec (.wr 0x00010 w) s = .next { s with ovr := true, err := false, rdata := v }

/-- 40_host_bus.md R91, R92: with BUSY = 0 a write of a window cell stores its fields in that cell; every other window cell reads as before, and no
register changes. -/
def Obligations.WrStoresOneCell : Prop :=
  ∀ (s : State) (a : Addr) (l : Loc) (d : Word), s.cfg.wf → s.lutWf → s.pending = none → CellAt s.cfg a.toNat l →
    ∃ t, exec (.wr a d) s = .next t ∧
      t = { s with lutHdr := t.lutHdr, lutCode := t.lutCode, rom := t.rom, symbuf := t.symbuf, bitbuf := t.bitbuf, err := false, rdata := t.rdata } ∧
      cellWord t l = some (storedWord s.cfg d l) ∧
      ∀ (b : Nat) (k : Loc), CellAt s.cfg b k → b ≠ a.toNat → cellWord t k = cellWord s k

/-- 60_exceptions.md R165, 20_memory.md R55 to R58: with BUSY = 0, a read of a window cell after a write of it returns the data with the bits that
the cell does not have read as 0. -/
def Obligations.RdAfterWrReadsTheStoredFields : Prop :=
  ∀ (s : State) (a : Addr) (l : Loc) (d : Word), s.cfg.wf → s.lutWf → s.pending = none → CellAt s.cfg a.toNat l →
    ∃ t u, exec (.wr a d) s = .next t ∧ exec (.rd a) t = .next u ∧ u.rdata = storedWord s.cfg d l ∧ u.err = false

/-- 20_memory.md R51, R52: whatever a write does, at every other mapped address the location reads as before, but for STATUS, and for ERR_INFO
when the write is a CMD write (which clears it). -/
def Obligations.WrChangesOneLocation : Prop :=
  ∀ (s t : State) (a : Addr) (d : Word), s.cfg.wf → s.lutWf → exec (.wr a d) s = .next t →
    (t.cfg = s.cfg ∧ t.modelFault = s.modelFault ∧ t.schedule = s.schedule ∧ t.fresh = s.fresh) ∧
    ∀ (b : Addr) (l : Loc), b ≠ a → b.toNat % 4 = 0 → mapped s.cfg b = some l → l ≠ .reg .status →
      (a.toNat = 0x00010 → l ≠ .reg .errInfo) → t.locValue l = s.locValue l

/-- 41_command_protocol.md R98, R97, 70_reset_and_hazards.md R176, R178: while a command is pending no transaction changes the command, an
operand of it, a memory, a result register or the failure record. -/
def Obligations.BusyTransactionsChangeNoOperand : Prop :=
  ∀ (s t : State) (i : Instr) (w : Word), s.pending = some w → ((∃ a, i = .rd a) ∨ ∃ a d, i = .wr a d) → exec i s = .next t →
    SameOperands s t ∧ t.pending = some w ∧ t.encBitlen = s.encBitlen ∧ t.encBytelen = s.encBytelen ∧
    t.decBitsUsed = s.decBitsUsed ∧ t.done = s.done ∧ t.fail = s.fail ∧ t.cause = s.cause ∧ t.errInfo = s.errInfo

/-! ## The engine and its control commands -/

/-- 41_command_protocol.md R102: NOP succeeds and changes nothing but the record of its completion.
(That the ports stay as they were is the model's choice, assumption log 5.) -/
def Obligations.NopSucceeds : Prop :=
  ∀ s : State, exec .nop s = .next (succeeded s)

/-- 41_command_protocol.md R104: a reserved command fails with BAD_CMD and the whole word as its information; no result register is zeroed.
(That the ports stay as they were is the model's choice, assumption log 5.) -/
def Obligations.ReservedCommandFails : Prop :=
  ∀ (s : State) (w : Word), exec (.badCmd w) s = .next (failed s .badCmd w)

/-- 41_command_protocol.md R103: CLEAR_LUT clears V of every header and keeps its LEN; nothing else changes but the record of completion.
(That the ports stay as they were is the model's choice, assumption log 5.) -/
def Obligations.ClearLutClearsEveryValidBit : Prop :=
  ∀ s : State, s.lutWf → ∃ t, exec .clearLut s = .next t ∧ t = { succeeded s with lutHdr := t.lutHdr } ∧
    ∀ sym, t.lutHeader sym = { v := false, len := (s.lutHeader sym).len }

/-- 41_command_protocol.md R96, R101; 60_exceptions.md R166: every engine step ends with `pending` empty, and if it raised no model fault, with
DONE = 1. It changes no operand register (10_state.md R29, R31, R32, R34), no code word (R36), no ROM cell (R37) and no sticky flag
(60_exceptions.md R155). That it goes on after a model fault and what it then leaves unchanged (assumption log 4), and that it leaves both
ports as they were (assumption log 5), are the model's choice. -/
def Obligations.EngineStepFinishesTheCommand : Prop :=
  ∀ (s : State) (w : Word), ∃ t, exec (decodeCmd w) s = .next t ∧ t.pending = none ∧ (t.modelFault = none → t.done = true) ∧
    t.cfg = s.cfg ∧ t.encNsym = s.encNsym ∧ t.decNsym = s.decNsym ∧ t.decNbits = s.decNbits ∧ t.treeValid = s.treeValid ∧
    t.treeRoot = s.treeRoot ∧ t.ovr = s.ovr ∧ t.busErr = s.busErr ∧ t.rdata = s.rdata ∧ t.err = s.err ∧ t.lutCode = s.lutCode ∧
    t.rom = s.rom

/-- 41_command_protocol.md R99: a pending command stays pending while the host issues transactions, and its engine step then happens even if the
host issues none. -/
def Obligations.PendingCommandIsFinished : Prop :=
  ∀ (s : State) (w : Word), s.pending = some w →
    (∀ e ∈ s.schedule, ∃ v i, e = .txn v ∧ decodeTxn v = .ok i) →
    ∃ t u, core.run s.schedule.length s = .next t ∧ t.pending = some w ∧ SameOperands s t ∧
      core.run 1 t = .next u ∧ exec (decodeCmd w) t = .next u ∧ u.pending = none

/-- 60_exceptions.md R153, 40_host_bus.md R84: the code STATUS shows for each cause, once a command has failed with it and with OVR and BUSERR
clear. -/
def Obligations.FailedCommandShowsItsCauseCode : Prop :=
  ∀ (s : State) (info : Word), s.ovr = false → s.busErr = false →
    (failed s .badCmd info).regValue .status = 0x00010006 ∧ (failed s .nsymRange info).regValue .status = 0x00020006 ∧
    (failed s .nbitsRange info).regValue .status = 0x00030006 ∧ (failed s .noCode info).regValue .status = 0x00040006 ∧
    (failed s .badCode info).regValue .status = 0x00050006 ∧ (failed s .outOvf info).regValue .status = 0x00060006 ∧
    (failed s .noTree info).regValue .status = 0x00070006 ∧ (failed s .romRange info).regValue .status = 0x00080006 ∧
    (failed s .exhausted info).regValue .status = 0x00090006 ∧ (succeeded s).regValue .status = 0x00000002

/-! ## The bitpacker -/

/-- 43_bitpacker.md R125: what packing a list of codes gives: the total bit count, `ceil_div(total, 8)` bytes, and each bit at its position, padding
bits 0. -/
def Obligations.PackingPutsBitsMsbFirst : Prop :=
  ∀ (codes : List (List Bool)) (p : Packer), p = (codes.foldl Packer.packCode packBegin).flush →
    p.total = codes.flatten.length ∧ p.out.length = ceilDiv codes.flatten.length 8 ∧ p.wptr = ceilDiv codes.flatten.length 8 ∧
    ∀ q r, q < p.out.length → r ≤ 7 → (p.out.getD q 0).getLsbD (7 - r) = codes.flatten.getD (8 * q + r) false

/-- 43_bitpacker.md R128, R127: the `t`-th UNPACK_BIT returns bit position `t` of BITBUF for `t < nbits`, and EMPTY otherwise. The state before
the `t`-th call is the one whose `rpos` is `t`. -/
def Obligations.UnpackingReturnsTheStreamBits : Prop :=
  ∀ (s : State) (nbits t : Nat) (b : Bool),
    (t < nbits → BitAt s.bitbuf t b → s.unpackBit { unpackBegin nbits with rpos := t } =
      .ok (some (b, { unpackBegin nbits with rpos := t + 1 }))) ∧
    (nbits ≤ t → s.unpackBit { unpackBegin nbits with rpos := t } = .ok none)

/-! ## ENCODE -/

/-- 44_encoder.md R131, R132 (and 30_encoding.md R72, R73): with the count in range, every symbol written and given a code, and the total in
range, ENCODE succeeds; BITBUF holds the concatenated codes, MSB first, with padding bits 0; bytes past the stream keep what they held; and
nothing changes but BITBUF, the two result registers and the record of completion.
(That the ports stay as they were is the model's choice, assumption log 5.) -/
def Obligations.EncodePacksTheCodes : Prop :=
  ∀ (s : State) (xs : List Sym) (codes : List (List Bool)) (bits : List Bool),
    s.encNsym.toNat = xs.length → xs.length ≤ s.cfg.symCap → SymbufHolds s xs → List.Forall₂ (HasCode s) xs codes →
    bits = codes.flatten → bits.length ≤ 8 * s.cfg.byteCap →
    ∃ t, exec .encode s = .next t ∧
      t = { succeeded s with
        bitbuf := t.bitbuf, encBitlen := BitVec.ofNat 32 bits.length, encBytelen := BitVec.ofNat 32 (ceilDiv bits.length 8) } ∧
      (∀ p, p < 8 * ceilDiv bits.length 8 → BitAt t.bitbuf p (bits.getD p false)) ∧
      (∀ q, ceilDiv bits.length 8 ≤ q → Memory.read t.bitbuf q = Memory.read s.bitbuf q)

/-- 44_encoder.md R130: the checks of ENCODE in their order: the count before any memory; the symbols in sequence order, an absent code before a
bad length, the first failing symbol deciding; and only then the total length.
(That the ports stay as they were is the model's choice, assumption log 5.) -/
def Obligations.EncodeChecksInOrder : Prop :=
  ∀ s : State,
    (s.cfg.symCap < s.encNsym.toNat →
      exec .encode s = .next (encodeFailed s .nsymRange (BitVec.ofNat 32 s.encNsym.toNat))) ∧
    (∀ (xs : List Sym) (x : Sym), s.encNsym.toNat ≤ s.cfg.symCap → xs.length < s.encNsym.toNat → SymbufHolds s (xs ++ [x]) →
      (∀ y ∈ xs, Usable s y) →
      ((s.lutHeader x.toNat).v = false →
        exec .encode s = .next (encodeFailed s .noCode (x ++ (0 : BitVec 8) ++ BitVec.ofNat 16 xs.length))) ∧
      ((s.lutHeader x.toNat).v = true →
        ((s.lutHeader x.toNat).len = 0 ∨ s.cfg.maxLen < (s.lutHeader x.toNat).len.toNat) →
        exec .encode s = .next (encodeFailed s .badCode (x ++ (0 : BitVec 8) ++ BitVec.ofNat 16 xs.length)))) ∧
    (∀ (xs : List Sym) (total : Nat), s.encNsym.toNat ≤ s.cfg.symCap → xs.length = s.encNsym.toNat → SymbufHolds s xs →
      (∀ y ∈ xs, Usable s y) → total = (xs.map fun y => (s.lutHeader y.toNat).len.toNat).sum → 8 * s.cfg.byteCap < total →
      exec .encode s = .next (encodeFailed s .outOvf (BitVec.ofNat 32 total)))

/-- 44_encoder.md R133: with a count of 0 ENCODE succeeds whatever the LUT and the buffers hold, and writes only zeros to its result
registers.
(That the ports stay as they were is the model's choice, assumption log 5.) -/
def Obligations.EncodeOfNothingSucceeds : Prop :=
  ∀ s : State, s.encNsym = 0 → exec .encode s = .next { succeeded s with encBitlen := 0, encBytelen := 0 }

/-- 44_encoder.md R134: an ENCODE that failed leaves BITBUF as it was and both result registers 0. (A model fault raised by it is no failure:
then the model says nothing of them.) -/
def Obligations.FailedEncodeWritesNoOutput : Prop :=
  ∀ s t : State, exec .encode s = .next t → t.modelFault = none → t.fail = true →
    t.bitbuf = s.bitbuf ∧ t.encBitlen = 0 ∧ t.encBytelen = 0 ∧ t.cause ≠ .none

/-- 44_encoder.md R136, R131: ENCODE, however it ends, never writes SYMBUF, the LUT, the ROM, TREE_CFG, an operand register or DEC_BITSUSED, no
sticky flag and no port; and unless it raised a model fault, every byte of BITBUF from ENC_BYTELEN up reads as before. What an ENCODE that
raised a model fault leaves unchanged (assumption log 4), and that the ports are as they were (assumption log 5), are the model's choice. -/
def Obligations.EncodeReadsItsInputsOnly : Prop :=
  ∀ s t : State, s.cfg.wf → exec .encode s = .next t →
    (t.symbuf = s.symbuf ∧ t.lutHdr = s.lutHdr ∧ t.lutCode = s.lutCode ∧ t.rom = s.rom ∧ t.treeValid = s.treeValid ∧
      t.treeRoot = s.treeRoot ∧ t.encNsym = s.encNsym ∧ t.decNsym = s.decNsym ∧ t.decNbits = s.decNbits ∧
      t.decBitsUsed = s.decBitsUsed ∧ t.ovr = s.ovr ∧ t.busErr = s.busErr ∧ t.cfg = s.cfg ∧ t.rdata = s.rdata ∧ t.err = s.err) ∧
    (t.modelFault = none → ∀ q, t.encBytelen.toNat ≤ q → Memory.read t.bitbuf q = Memory.read s.bitbuf q)

/-- 44_encoder.md R137: two ENCODEs from states that agree on ENC_NSYM, on the symbols it reads and on the LUT give the same bytes, results and
status, in a run without a model fault. -/
def Obligations.EncodeDependsOnItsInputsOnly : Prop :=
  ∀ s t s' t' : State, s.cfg = s'.cfg → s.encNsym = s'.encNsym →
    (∀ i, i < s.encNsym.toNat → Memory.read s.symbuf i = Memory.read s'.symbuf i) →
    (∀ sym, s.lutHeader sym = s'.lutHeader sym) → (∀ k, Memory.read s.lutCode k = Memory.read s'.lutCode k) →
    exec .encode s = .next t → exec .encode s' = .next t' → s.modelFault = none → s'.modelFault = none → t.modelFault = none →
    t'.modelFault = none ∧ t'.done = t.done ∧ t'.fail = t.fail ∧ t'.cause = t.cause ∧ t'.errInfo = t.errInfo ∧
    t'.encBitlen = t.encBitlen ∧ t'.encBytelen = t.encBytelen ∧
    ∀ q, q < t.encBytelen.toNat → Memory.read t'.bitbuf q = Memory.read t.bitbuf q

/-- 44_encoder.md R135: ENCODE reads a symbol before its header, and a code word only once every symbol and the total have passed; the first
unwritten cell it reads is the model fault (where none is set), with `pending` empty and its inputs as they were (R136). That the machine goes on,
and that SYMBUF and the LUT are as they were after the model fault, are the model's choice (assumption log 4). -/
def Obligations.EncodeFaultsAtTheFirstUnwrittenCell : Prop :=
  ∀ s : State, s.encNsym.toNat ≤ s.cfg.symCap → s.modelFault = none →
    (∀ xs : List Sym, xs.length < s.encNsym.toNat → SymbufHolds s xs → (∀ y ∈ xs, Usable s y) →
      Memory.read s.symbuf xs.length = none →
      ∃ t, exec .encode s = .next t ∧ t.pending = none ∧ t.modelFault = some (.uninitRead (.symbuf xs.length)) ∧
        t.symbuf = s.symbuf ∧ t.lutHdr = s.lutHdr ∧ t.lutCode = s.lutCode) ∧
    (∀ (xs ys : List Sym) (x : Sym) (codes : List (List Bool)) (w : Nat),
      (xs ++ x :: ys).length = s.encNsym.toNat → SymbufHolds s (xs ++ x :: ys) → (∀ y ∈ xs ++ x :: ys, Usable s y) →
      ((xs ++ x :: ys).map fun y => (s.lutHeader y.toNat).len.toNat).sum ≤ 8 * s.cfg.byteCap →
      List.Forall₂ (HasCode s) xs codes →
      (∀ v, v < w → Memory.read s.lutCode (lutCodeIndex x.toNat v) ≠ none) → 32 * w < (s.lutHeader x.toNat).len.toNat →
      Memory.read s.lutCode (lutCodeIndex x.toNat w) = none →
      ∃ t, exec .encode s = .next t ∧ t.pending = none ∧ t.modelFault = some (.uninitRead (.lutc x.toNat w)) ∧
        t.symbuf = s.symbuf ∧ t.lutHdr = s.lutHdr ∧ t.lutCode = s.lutCode)

/-! ## DECODE -/

/-- 45_decoder.md R141, R142, R143 (in the order of R140): the register checks, the success of a count of 0 whatever TREE_CFG holds, and the
failure with no tree.
(That the ports stay as they were is the model's choice, assumption log 5.) -/
def Obligations.DecodeChecksItsRegisters : Prop :=
  ∀ (s : State) (n nbits : Nat), n = s.decNsym.toNat → nbits = s.decNbits.toNat →
    (s.cfg.symCap < n → exec .decode s = .next (decodeFailed s .nsymRange (BitVec.ofNat 32 n))) ∧
    (n ≤ s.cfg.symCap → 8 * s.cfg.byteCap < nbits → exec .decode s = .next (decodeFailed s .nbitsRange (BitVec.ofNat 32 nbits))) ∧
    (n = 0 → nbits ≤ 8 * s.cfg.byteCap → exec .decode s = .next { succeeded s with decBitsUsed := 0 }) ∧
    (1 ≤ n → n ≤ s.cfg.symCap → nbits ≤ 8 * s.cfg.byteCap → s.treeValid = false → exec .decode s = .next (decodeFailed s .noTree 0))

/-- 45_decoder.md R144: a leaf at the root is emitted `n` times, whatever the stream holds and even with `nbits = 0`; no bit is used.
(That the ports stay as they were is the model's choice, assumption log 5.) -/
def Obligations.DecodeOfADegenerateTree : Prop :=
  ∀ (s : State) (root : Node), 1 ≤ s.decNsym.toNat → s.decNsym.toNat ≤ s.cfg.symCap → s.decNbits.toNat ≤ 8 * s.cfg.byteCap →
    s.treeValid = true → s.treeRoot.toNat < s.cfg.nodes → Memory.read s.rom s.treeRoot.toNat = some root → root.leaf = true →
    ∃ t, exec .decode s = .next t ∧ t = { succeeded s with symbuf := t.symbuf, decBitsUsed := 0 } ∧
      (∀ k, k < s.decNsym.toNat → Memory.read t.symbuf k = some (root.sym s.cfg)) ∧
      (∀ k, s.decNsym.toNat ≤ k → Memory.read t.symbuf k = Memory.read s.symbuf k)

/-- 45_decoder.md R145, R148, R149: where the stream begins with the paths of `n` leaves, DECODE writes their symbols in order, reports the bits of
those paths as used, reads no further bit, and changes nothing else but the record of completion.
(That the ports stay as they were is the model's choice, assumption log 5.) -/
def Obligations.DecodeWalksTheTree : Prop :=
  ∀ (s : State) (xs : List Sym) (codes : List (List Bool)), WalkReady s → xs.length = s.decNsym.toNat →
    List.Forall₂ (LeafPath s s.treeRoot) codes xs → codes.flatten.length ≤ s.decNbits.toNat → StreamHolds s codes.flatten →
    ∃ t, exec .decode s = .next t ∧
      t = { succeeded s with symbuf := t.symbuf, decBitsUsed := BitVec.ofNat 32 codes.flatten.length } ∧
      (∀ k, k < xs.length → Memory.read t.symbuf k = xs[k]?) ∧
      (∀ k, xs.length ≤ k → Memory.read t.symbuf k = Memory.read s.symbuf k)

/-- 45_decoder.md R146: a walk that needs a bit at `rpos >= nbits`, in the middle of a code or at its end, fails with EXHAUSTED and the number of
symbols completed.
(That the ports stay as they were is the model's choice, assumption log 5.) -/
def Obligations.DecodeFailsWhenBitsRunOut : Prop :=
  ∀ (s : State) (xs : List Sym) (codes : List (List Bool)) (front : List Bool) (stop : NodeIx), WalkReady s →
    xs.length < s.decNsym.toNat → List.Forall₂ (LeafPath s s.treeRoot) codes xs → InternalPath s s.treeRoot front stop →
    (codes.flatten ++ front).length = s.decNbits.toNat → StreamHolds s (codes.flatten ++ front) →
    exec .decode s = .next (decodeFailed s .exhausted (BitVec.ofNat 32 xs.length))

/-- 45_decoder.md R147: a root out of range fails with ROM_RANGE of its index at symbol 0, and so does a child index out of range that the walk is
about to visit, with the number of symbols completed.
(That the ports stay as they were is the model's choice, assumption log 5.) -/
def Obligations.DecodeFailsOnAnIndexOutOfRange : Prop :=
  ∀ s : State,
    (1 ≤ s.decNsym.toNat → s.decNsym.toNat ≤ s.cfg.symCap → s.decNbits.toNat ≤ 8 * s.cfg.byteCap → s.treeValid = true →
      s.cfg.nodes ≤ s.treeRoot.toNat →
      exec .decode s = .next (decodeFailed s .romRange ((0 : BitVec 7) ++ s.treeRoot ++ (0 : BitVec 16)))) ∧
    (∀ (xs : List Sym) (codes : List (List Bool)) (front : List Bool) (b : Bool) (stop : NodeIx) (node : Node), WalkReady s →
      xs.length < s.decNsym.toNat → List.Forall₂ (LeafPath s s.treeRoot) codes xs → InternalPath s s.treeRoot front stop →
      (codes.flatten ++ front).length < s.decNbits.toNat → StreamHolds s (codes.flatten ++ front ++ [b]) →
      Memory.read s.rom stop.toNat = some node → s.cfg.nodes ≤ (node.child b).toNat →
      exec .decode s = .next (decodeFailed s .romRange ((0 : BitVec 7) ++ node.child b ++ BitVec.ofNat 16 xs.length)))

/-- 45_decoder.md R149: a DECODE that failed leaves SYMBUF as it was and DEC_BITSUSED 0; one that succeeded writes no cell at index `>= n`. (A
model fault raised by it is no failure: then the model says nothing of them.) -/
def Obligations.DecodeWritesOutputOnSuccessOnly : Prop :=
  ∀ s t : State, exec .decode s = .next t → t.modelFault = none →
    (t.fail = true → t.symbuf = s.symbuf ∧ t.decBitsUsed = 0 ∧ t.cause ≠ .none) ∧
    (∀ k, s.decNsym.toNat ≤ k → Memory.read t.symbuf k = Memory.read s.symbuf k)

/-- 45_decoder.md R150, 10_state.md R37: DECODE, however it ends, never writes the ROM, the LUT, BITBUF, TREE_CFG, an operand register, ENC_BITLEN or
ENC_BYTELEN, no sticky flag and no port (R139, 60_exceptions.md R157). What a DECODE that raised a model fault leaves unchanged (assumption
log 4), and that the ports are as they were (assumption log 5), are the model's choice. -/
def Obligations.DecodeReadsItsInputsOnly : Prop :=
  ∀ s t : State, exec .decode s = .next t →
    t.bitbuf = s.bitbuf ∧ t.lutHdr = s.lutHdr ∧ t.lutCode = s.lutCode ∧ t.rom = s.rom ∧ t.treeValid = s.treeValid ∧
    t.treeRoot = s.treeRoot ∧ t.encNsym = s.encNsym ∧ t.decNsym = s.decNsym ∧ t.decNbits = s.decNbits ∧
    t.encBitlen = s.encBitlen ∧ t.encBytelen = s.encBytelen ∧ t.ovr = s.ovr ∧ t.busErr = s.busErr ∧ t.cfg = s.cfg ∧
    t.rdata = s.rdata ∧ t.err = s.err

/-- 10_state.md R32, 45_decoder.md R148: DECODE never reads a bit at or past DEC_NBITS: if another BITBUF has the same bits below it (unwritten ones
included), DECODE gives the same result with it. That two runs that raise a model fault leave the same registers is the model's choice
(assumption log 4): both take the free value of the same counter. -/
def Obligations.DecodeReadsNoBitPastTheLimit : Prop :=
  ∀ (s t : State) (m : Memory Byte),
    (∀ p, p < s.decNbits.toNat →
      (Memory.read s.bitbuf (p / 8)).map (fun v => v.getLsbD (7 - p % 8)) = (Memory.read m (p / 8)).map (fun v => v.getLsbD (7 - p % 8))) →
    exec .decode s = .next t → exec .decode { s with bitbuf := m } = .next { t with bitbuf := m }

/-- 45_decoder.md R150, R139: the first unwritten cell that DECODE reads, the root's ROM cell, a stream byte or the ROM cell of a child, is the model
fault (where none is set), with `pending` empty and DECODE's inputs as they were (60_exceptions.md R157, 10_state.md R37). That the machine goes on,
and that BITBUF and the ROM are as they were after the model fault, are the model's choice (assumption log 4). -/
def Obligations.DecodeFaultsAtTheFirstUnwrittenCell : Prop :=
  ∀ s : State, s.modelFault = none →
    (1 ≤ s.decNsym.toNat → s.decNsym.toNat ≤ s.cfg.symCap → s.decNbits.toNat ≤ 8 * s.cfg.byteCap → s.treeValid = true →
      s.treeRoot.toNat < s.cfg.nodes → Memory.read s.rom s.treeRoot.toNat = none →
      ∃ t, exec .decode s = .next t ∧ t.pending = none ∧ t.modelFault = some (.uninitRead (.rom s.treeRoot.toNat)) ∧
        t.bitbuf = s.bitbuf ∧ t.rom = s.rom) ∧
    (∀ (xs : List Sym) (codes : List (List Bool)) (front : List Bool) (stop : NodeIx), WalkReady s →
      xs.length < s.decNsym.toNat → List.Forall₂ (LeafPath s s.treeRoot) codes xs → InternalPath s s.treeRoot front stop →
      (codes.flatten ++ front).length < s.decNbits.toNat → StreamHolds s (codes.flatten ++ front) →
      (Memory.read s.bitbuf ((codes.flatten ++ front).length / 8) = none →
        ∃ t, exec .decode s = .next t ∧ t.pending = none ∧
          t.modelFault = some (.uninitRead (.bitbuf ((codes.flatten ++ front).length / 8))) ∧ t.bitbuf = s.bitbuf ∧ t.rom = s.rom) ∧
      (∀ (b : Bool) (node : Node), BitAt s.bitbuf (codes.flatten ++ front).length b → Memory.read s.rom stop.toNat = some node →
        (node.child b).toNat < s.cfg.nodes → Memory.read s.rom (node.child b).toNat = none →
        ∃ t, exec .decode s = .next t ∧ t.pending = none ∧ t.modelFault = some (.uninitRead (.rom (node.child b).toNat)) ∧
          t.bitbuf = s.bitbuf ∧ t.rom = s.rom))

/-! ## The table compiler, and the codec with compiled tables -/

/-- 42_table_compiler.md R111, R112, R114: an empty sequence compiles to no valid header, an empty ROM image and TREE_CFG 0; a sequence of one
distinct symbol gives that symbol the one-bit code "0" and a ROM image of one leaf. -/
def Obligations.CompileOfDegenerateSequences : Prop :=
  ∀ c : Config, c.wf →
    (∃ im, compile c [] = .ok im ∧ (∀ e ∈ im.lut, e.header = 0 ∧ e.words = []) ∧ im.rom = [] ∧ im.treeCfg = 0) ∧
    (∀ x n, x < c.alphabet → 1 ≤ n → compiledCodes c (List.replicate n x) = [(x, [false])] ∧
      ∃ im, compile c (List.replicate n x) = .ok im ∧ im.rom = [0x80000000 ||| BitVec.ofNat 32 x] ∧ im.treeCfg = 0x80000000)

/-- 42_table_compiler.md R107: a table with a count `<= 0` is rejected with INVALID_COUNT; one whose counts are all positive and that names a symbol
outside `0 .. ALPHABET-1`, a negative one included, with INVALID_SYMBOL; the table that `countFrequencies` makes of a sequence is never
malformed. (Which error a table with both defects gives is the model's choice, assumption log 10.) -/
def Obligations.CompileRejectsMalformedTables : Prop :=
  ∀ (c : Config) (table : List (Int × Int)),
    ((∃ p ∈ table, p.2 ≤ 0) → compileFreq c table = .error .invalidCount) ∧
    ((∀ p ∈ table, 0 < p.2) → (∃ p ∈ table, p.1 < 0 ∨ (c.alphabet : Int) ≤ p.1) → compileFreq c table = .error .invalidSymbol) ∧
    (∀ seq, InAlphabet c seq →
      compileFreq c ((countFrequencies seq).map fun p => ((p.1 : Int), (p.2 : Int))) = compile c seq)

/-- 42_table_compiler.md R108, R113, R118: exactly the symbols of the sequence have a code, each one code, none empty and none longer than
`ALPHABET - 1`; so with the default MAX_LEN the compiler never fails. -/
def Obligations.CompiledCodesCoverTheSequence : Prop :=
  ∀ (c : Config) (seq : List Nat), c.wf → seq ≠ [] → InAlphabet c seq →
    ((compiledCodes c seq).map Prod.fst).Nodup ∧ (∀ x, x ∈ (compiledCodes c seq).map Prod.fst ↔ x ∈ seq) ∧
    (∀ p ∈ compiledCodes c seq, 1 ≤ p.2.length ∧ p.2.length ≤ c.alphabet - 1) ∧
    (c.alphabet - 1 ≤ c.maxLen → ∃ im, compile c seq = .ok im)

/-- 42_table_compiler.md R119 (a): the codes of a compiled table are prefix-free. -/
def Obligations.CompiledCodesArePrefixFree : Prop :=
  ∀ (c : Config) (seq : List Nat), InAlphabet c seq →
    ∀ p ∈ compiledCodes c seq, ∀ q ∈ compiledCodes c seq, p.1 ≠ q.1 → ¬ p.2 <+: q.2

/-- 42_table_compiler.md R116, R119 (c): a LUT that holds the image of a compiled table gives every symbol of the sequence its code, with a usable
header, and every other symbol none. -/
def Obligations.CompiledLutGivesTheCodes : Prop :=
  ∀ (s : State) (seq : List Nat) (im : Images), s.cfg.wf → InAlphabet s.cfg seq → compile s.cfg seq = .ok im → LutLoaded s im →
    (∀ p ∈ compiledCodes s.cfg seq, HasCode s (BitVec.ofNat 8 p.1) p.2) ∧
    (∀ x, x < s.cfg.alphabet → x ∉ seq → (s.lutHeader x).v = false)

/-- 42_table_compiler.md R119 (b), R115: a ROM that holds the image of a compiled table with two or more symbols leads, along each symbol's code from
the root, over internal nodes to that symbol's leaf. -/
def Obligations.CompiledRomFollowsTheCodes : Prop :=
  ∀ (s : State) (seq : List Nat) (im : Images), s.cfg.wf → InAlphabet s.cfg seq → (∃ x ∈ seq, ∃ y ∈ seq, x ≠ y) →
    compile s.cfg seq = .ok im → TreeLoaded s im →
    s.treeValid = true ∧ s.treeRoot = 0 ∧ (∃ root, Memory.read s.rom 0 = some root ∧ root.leaf = false) ∧
    ∀ p ∈ compiledCodes s.cfg seq, LeafPath s s.treeRoot p.2 (BitVec.ofNat 8 p.1)

/-- 44_encoder.md R138: with the LUT image of the sequence loaded, the sequence in SYMBUF and `8*BYTE_CAP >= n*SYM_W`, ENCODE succeeds,
ENC_BITLEN is the sum of the code lengths, and it is at most `n*SYM_W`. -/
def Obligations.EncodeWithCompiledTableSucceeds : Prop :=
  ∀ (s : State) (seq : List Nat) (im : Images), s.cfg.wf → InAlphabet s.cfg seq → compile s.cfg seq = .ok im → LutLoaded s im →
    SymbufHolds s (seq.map (BitVec.ofNat 8)) → s.encNsym.toNat = seq.length → seq.length ≤ s.cfg.symCap →
    seq.length * s.cfg.symW ≤ 8 * s.cfg.byteCap →
    ∃ t, exec .encode s = .next t ∧ t.done = true ∧ t.fail = false ∧ t.modelFault = s.modelFault ∧
      t.encBitlen.toNat = codedLength s.cfg seq ∧ t.encBitlen.toNat ≤ seq.length * s.cfg.symW

/-- 45_decoder.md R151, with the encoded length itself in place of the bound `n*SYM_W` on it: with the three images of the sequence loaded and the
sequence in SYMBUF, ENCODE and then DECODE of as many symbols, with DEC_NBITS from ENC_BITLEN to `8*ENC_BYTELEN`, leaves the sequence in
SYMBUF and uses ENC_BITLEN bits, or none for one distinct symbol. -/
def Obligations.DecodeInvertsEncodeOnCompiledTables : Prop :=
  ∀ (s : State) (seq : List Nat) (im : Images), s.cfg.wf → seq ≠ [] → InAlphabet s.cfg seq → compile s.cfg seq = .ok im →
    LutLoaded s im → TreeLoaded s im → SymbufHolds s (seq.map (BitVec.ofNat 8)) → s.encNsym.toNat = seq.length →
    s.decNsym.toNat = seq.length → seq.length ≤ s.cfg.symCap → codedLength s.cfg seq ≤ 8 * s.cfg.byteCap →
    ∃ t, exec .encode s = .next t ∧ t.fail = false ∧ t.encBitlen.toNat = codedLength s.cfg seq ∧
      ∀ nbits : BitVec 18, t.encBitlen.toNat ≤ nbits.toNat → nbits.toNat ≤ 8 * t.encBytelen.toNat →
        ∃ u, exec .decode { t with decNbits := nbits } = .next u ∧ u.done = true ∧ u.fail = false ∧
          SymbufHolds u (seq.map (BitVec.ofNat 8)) ∧
          ((∃ x ∈ seq, ∃ y ∈ seq, x ≠ y) → u.decBitsUsed = t.encBitlen) ∧ ((∀ x ∈ seq, ∀ y ∈ seq, x = y) → u.decBitsUsed = 0)
end

