-- ==== Sys2Proof/Laws/Memory.lean ====
section
/-! SUPPORT. The laws of the sparse memory: reading after a write, and every operation keeps the canonical form. -/

namespace Sys2Proof.Machine

variable {α : Type}

@[simp] theorem Memory.read_nil (k : Nat) : Memory.read ([] : Memory α) k = none := rfl

@[simp] theorem Memory.read_write_same (m : Memory α) (k : Nat) (v : α) : Memory.read (Memory.write m k v) k = some v := by
  induction m with
  | nil => simp [Memory.write, Memory.read]
  | cons p m ih =>
    obtain ⟨j, u⟩ := p
    simp only [Memory.write]
    split_ifs with h1 h2
    · simp [Memory.read]
    · simp [Memory.read]
    · have : j ≠ k := fun h => h2 h.symm
      simp [Memory.read, this, ih]

theorem Memory.read_write_other (m : Memory α) {j k : Nat} (h : j ≠ k) (v : α) :
    Memory.read (Memory.write m k v) j = Memory.read m j := by
  induction m with
  | nil => simp [Memory.write, Memory.read, h.symm]
  | cons p m ih =>
    obtain ⟨i, u⟩ := p
    simp only [Memory.write]
    split_ifs with h1 h2
    · simp [Memory.read, h.symm]
    · subst h2; simp [Memory.read, h.symm]
    · simp only [Memory.read, ih]

theorem Memory.read_write (m : Memory α) (j k : Nat) (v : α) :
    Memory.read (Memory.write m k v) j = if j = k then some v else Memory.read m j := by
  split_ifs with h
  · subst h; exact Memory.read_write_same m j v
  · exact Memory.read_write_other m h v

/-- An index below every listed one reads as unlisted. -/
theorem Memory.read_eq_none_of_lt {m : Memory α} {k : Nat} (h : ∀ p ∈ m, k < p.1) : Memory.read m k = none := by
  induction m with
  | nil => rfl
  | cons p m ih =>
    obtain ⟨j, u⟩ := p
    have hj : k < j := h (j, u) (by simp)
    simp only [Memory.read, if_neg (Nat.ne_of_gt hj)]
    exact ih fun q hq => h q (by simp [hq])

theorem Memory.mem_of_read {m : Memory α} {k : Nat} {v : α} (h : Memory.read m k = some v) : (k, v) ∈ m := by
  induction m with
  | nil => simp at h
  | cons p m ih =>
    obtain ⟨j, u⟩ := p
    simp only [Memory.read] at h
    split_ifs at h with hj
    · cases h; subst hj; simp
    · simp [ih h]

theorem Memory.read_of_mem {m : Memory α} (hm : Memory.wf m) {k : Nat} {v : α} (h : (k, v) ∈ m) : Memory.read m k = some v := by
  induction m with
  | nil => simp at h
  | cons p m ih =>
    obtain ⟨j, u⟩ := p
    rw [Memory.wf, List.pairwise_cons] at hm
    rcases List.mem_cons.1 h with h | h
    · cases h; simp [Memory.read]
    · have : j < k := hm.1 (k, v) h
      simp only [Memory.read, if_neg (Nat.ne_of_lt this)]
      exact ih hm.2 h

/-- What a write lists: the new entry, or an entry that was there. -/
theorem Memory.mem_write {m : Memory α} {k : Nat} {v : α} {q : Nat × α} (h : q ∈ Memory.write m k v) : q = (k, v) ∨ q ∈ m := by
  induction m with
  | nil => simpa [Memory.write] using h
  | cons p m ih =>
    obtain ⟨j, u⟩ := p
    simp only [Memory.write] at h
    split_ifs at h with h1 h2
    · simpa using h
    · rcases List.mem_cons.1 h with h | h
      · exact .inl h
      · exact .inr (by simp [h])
    · rcases List.mem_cons.1 h with h | h
      · exact .inr (by simp [h])
      · exact (ih h).imp id fun h => by simp [h]

theorem Memory.write_wf {m : Memory α} (hm : Memory.wf m) (k : Nat) (v : α) : Memory.wf (Memory.write m k v) := by
  induction m with
  | nil => simp [Memory.write, Memory.wf]
  | cons p m ih =>
    obtain ⟨j, u⟩ := p
    rw [Memory.wf, List.pairwise_cons] at hm
    simp only [Memory.write]
    split_ifs with h1 h2
    · refine List.pairwise_cons.2 ⟨fun q hq => ?_, List.pairwise_cons.2 hm⟩
      rcases List.mem_cons.1 hq with rfl | hq
      · exact h1
      · exact h1.trans (hm.1 q hq)
    · subst h2; exact List.pairwise_cons.2 ⟨hm.1, hm.2⟩
    · refine List.pairwise_cons.2 ⟨fun q hq => ?_, ih hm.2⟩
      rcases Memory.mem_write hq with rfl | hq
      · exact Nat.lt_of_le_of_ne (Nat.le_of_not_lt h1) (fun h => h2 h.symm)
      · exact hm.1 q hq

theorem Memory.mem_erase {m : Memory α} {k : Nat} {q : Nat × α} (h : q ∈ Memory.erase m k) : q ∈ m := by
  induction m with
  | nil => simp [Memory.erase] at h
  | cons p m ih =>
    obtain ⟨j, u⟩ := p
    simp only [Memory.erase] at h
    split_ifs at h with hj
    · simp [h]
    · rcases List.mem_cons.1 h with h | h
      · simp [h]
      · simp [ih h]

theorem Memory.erase_wf {m : Memory α} (hm : Memory.wf m) (k : Nat) : Memory.wf (Memory.erase m k) := by
  induction m with
  | nil => simp [Memory.erase, Memory.wf]
  | cons p m ih =>
    obtain ⟨j, u⟩ := p
    rw [Memory.wf, List.pairwise_cons] at hm
    simp only [Memory.erase]
    split_ifs
    · exact hm.2
    · exact List.pairwise_cons.2 ⟨fun q hq => hm.1 q (Memory.mem_erase hq), ih hm.2⟩

theorem Memory.read_erase {m : Memory α} (hm : Memory.wf m) (j k : Nat) :
    Memory.read (Memory.erase m k) j = if j = k then none else Memory.read m j := by
  induction m with
  | nil => simp [Memory.erase]
  | cons p m ih =>
    obtain ⟨i, u⟩ := p
    rw [Memory.wf, List.pairwise_cons] at hm
    simp only [Memory.erase]
    split_ifs with h1 h2 h2
    · subst h1 h2; exact Memory.read_eq_none_of_lt fun q hq => hm.1 q hq
    · subst h1; simp [Memory.read, Ne.symm h2]
    · subst h2; simp [Memory.read, h1, ih hm.2]
    · simp only [Memory.read, ih hm.2, if_neg h2]

theorem Memory.writeFrom_wf {m : Memory α} (hm : Memory.wf m) (k : Nat) (vs : List α) : Memory.wf (Memory.writeFrom m k vs) := by
  induction vs generalizing m k with
  | nil => exact hm
  | cons v vs ih => exact ih (Memory.write_wf hm k v) (k + 1)

/-- What a committed output lists: a staged value at its index, or an entry that was there. -/
theorem Memory.mem_writeFrom {vs : List α} : ∀ {m : Memory α} {k : Nat} {q : Nat × α}, q ∈ Memory.writeFrom m k vs →
    (q.1 < k + vs.length ∧ q.2 ∈ vs) ∨ q ∈ m := by
  induction vs with
  | nil => intro m k q h; exact .inr h
  | cons v vs ih =>
    intro m k q h
    rcases ih h with ⟨hk, hv⟩ | h
    · exact .inl ⟨by simp only [List.length_cons]; omega, by simp [hv]⟩
    · rcases Memory.mem_write h with rfl | h
      · exact .inl ⟨by simp, by simp⟩
      · exact .inr h

theorem Memory.read_writeFrom_lt (vs : List α) (m : Memory α) (k : Nat) {j : Nat} (h : j < k) :
    Memory.read (Memory.writeFrom m k vs) j = Memory.read m j := by
  induction vs generalizing m k with
  | nil => rfl
  | cons v vs ih =>
    rw [Memory.writeFrom, ih (Memory.write m k v) (k + 1) (by omega), Memory.read_write_other m (by omega)]

/-- The committed output, index by index: the staged values from `k` up, and nothing else changes. -/
theorem Memory.read_writeFrom (vs : List α) (m : Memory α) (k j : Nat) :
    Memory.read (Memory.writeFrom m k vs) j =
      if k ≤ j ∧ j < k + vs.length then vs[j - k]? else Memory.read m j := by
  induction vs generalizing m k with
  | nil =>
    simp [Memory.writeFrom]
  | cons v vs ih =>
    rw [Memory.writeFrom, ih]
    by_cases hk : k = j
    · subst hk
      have : ¬(k + 1 ≤ k) := by omega
      simp [this]
    · by_cases hlt : k ≤ j ∧ j < k + (vs.length + 1)
      · have h1 : k + 1 ≤ j ∧ j < k + 1 + vs.length := by omega
        have h2 : j - k = (j - (k + 1)) + 1 := by omega
        simp only [List.length_cons, if_pos hlt, if_pos h1, h2, List.getElem?_cons_succ]
      · have h1 : ¬(k + 1 ≤ j ∧ j < k + 1 + vs.length) := by omega
        simp only [List.length_cons, if_neg hlt, if_neg h1]
        exact Memory.read_write_other m (fun h => hk h.symm) v

theorem Memory.readHeader_writeHeader {m : Memory LutHeader} (hm : Memory.wf m) (j k : Nat) (h : LutHeader) :
    Memory.readHeader (Memory.writeHeader m k h) j = if j = k then h else Memory.readHeader m j := by
  unfold Memory.readHeader Memory.writeHeader
  by_cases hz : h = LutHeader.zero
  · rw [if_pos hz, Memory.read_erase hm]
    split_ifs <;> simp [hz]
  · rw [if_neg hz, Memory.read_write]
    split_ifs <;> rfl

theorem Memory.writeHeader_wf {m : Memory LutHeader} (hm : Memory.wf m) (k : Nat) (h : LutHeader) :
    Memory.wf (Memory.writeHeader m k h) := by
  unfold Memory.writeHeader
  split_ifs
  · exact Memory.erase_wf hm k
  · exact Memory.write_wf hm k h

theorem Memory.mem_writeHeader {m : Memory LutHeader} {k : Nat} {h : LutHeader} {q : Nat × LutHeader}
    (hq : q ∈ Memory.writeHeader m k h) : (q = (k, h) ∧ h ≠ LutHeader.zero) ∨ q ∈ m := by
  unfold Memory.writeHeader at hq
  split_ifs at hq with hz
  · exact .inr (Memory.mem_erase hq)
  · exact (Memory.mem_write hq).imp (fun e => ⟨e, hz⟩) id

theorem Memory.writeHeader_noZeroHeader {m : Memory LutHeader} (hm : Memory.noZeroHeader m) (k : Nat) (h : LutHeader) :
    Memory.noZeroHeader (Memory.writeHeader m k h) := by
  intro q hq
  rcases Memory.mem_writeHeader hq with ⟨rfl, hz⟩ | hq
  · exact hz
  · exact hm q hq

theorem Memory.mem_clearV {m : Memory LutHeader} {q : Nat × LutHeader} (hq : q ∈ Memory.clearV m) :
    q.2.v = false ∧ q.2.len ≠ 0 ∧ ∃ h, (q.1, h) ∈ m ∧ h.len = q.2.len := by
  induction m with
  | nil => simp [Memory.clearV] at hq
  | cons p m ih =>
    obtain ⟨s, h⟩ := p
    simp only [Memory.clearV] at hq
    split_ifs at hq with hl
    · obtain ⟨hv, hn, h', hm, he⟩ := ih hq
      exact ⟨hv, hn, h', by simp [hm], he⟩
    · rcases List.mem_cons.1 hq with rfl | hq
      · exact ⟨rfl, hl, h, by simp, rfl⟩
      · obtain ⟨hv, hn, h', hm, he⟩ := ih hq
        exact ⟨hv, hn, h', by simp [hm], he⟩

theorem Memory.clearV_wf {m : Memory LutHeader} (hm : Memory.wf m) : Memory.wf (Memory.clearV m) := by
  induction m with
  | nil => simp [Memory.clearV, Memory.wf]
  | cons p m ih =>
    obtain ⟨s, h⟩ := p
    rw [Memory.wf, List.pairwise_cons] at hm
    simp only [Memory.clearV]
    split_ifs
    · exact ih hm.2
    · refine List.pairwise_cons.2 ⟨fun q hq => ?_, ih hm.2⟩
      obtain ⟨-, -, h', hmem, -⟩ := Memory.mem_clearV hq
      exact hm.1 (q.1, h') hmem

theorem Memory.clearV_noZeroHeader (m : Memory LutHeader) : Memory.noZeroHeader (Memory.clearV m) := by
  intro q hq he
  exact (Memory.mem_clearV hq).2.1 (by rw [he]; rfl)

/-- The memories of the reset state are in canonical form. -/
theorem State.reset_memories_wf :
    Memory.wf State.reset.lutHdr ∧ Memory.noZeroHeader State.reset.lutHdr ∧ Memory.wf State.reset.lutCode ∧
    Memory.wf State.reset.rom ∧ Memory.wf State.reset.symbuf ∧ Memory.wf State.reset.bitbuf := by
  simp [State.reset, Memory.wf, Memory.noZeroHeader]

end Sys2Proof.Machine
end

