-- ==== Sys2Proof/Laws/State.lean ====
section
/-! SUPPORT. The fields of the state after each named update, one lemma a field, so that no proof unfolds a record update. -/

namespace Sys2Proof.Machine
section StatusWrite
variable (s : State) (data : Word)
@[simp] theorem State.statusWrite_cfg : (s.statusWrite data).cfg = s.cfg := rfl
@[simp] theorem State.statusWrite_encNsym : (s.statusWrite data).encNsym = s.encNsym := rfl
@[simp] theorem State.statusWrite_decNsym : (s.statusWrite data).decNsym = s.decNsym := rfl
@[simp] theorem State.statusWrite_decNbits : (s.statusWrite data).decNbits = s.decNbits := rfl
@[simp] theorem State.statusWrite_treeValid : (s.statusWrite data).treeValid = s.treeValid := rfl
@[simp] theorem State.statusWrite_treeRoot : (s.statusWrite data).treeRoot = s.treeRoot := rfl
@[simp] theorem State.statusWrite_encBitlen : (s.statusWrite data).encBitlen = s.encBitlen := rfl
@[simp] theorem State.statusWrite_encBytelen : (s.statusWrite data).encBytelen = s.encBytelen := rfl
@[simp] theorem State.statusWrite_decBitsUsed : (s.statusWrite data).decBitsUsed = s.decBitsUsed := rfl
@[simp] theorem State.statusWrite_errInfo : (s.statusWrite data).errInfo = s.errInfo := rfl
@[simp] theorem State.statusWrite_done : (s.statusWrite data).done = s.done := rfl
@[simp] theorem State.statusWrite_fail : (s.statusWrite data).fail = s.fail := rfl
@[simp] theorem State.statusWrite_cause : (s.statusWrite data).cause = s.cause := rfl
@[simp] theorem State.statusWrite_ovr : (s.statusWrite data).ovr = (s.ovr && !data.getLsbD 8) := rfl
@[simp] theorem State.statusWrite_busErr : (s.statusWrite data).busErr = (s.busErr && !data.getLsbD 9) := rfl
@[simp] theorem State.statusWrite_pending : (s.statusWrite data).pending = s.pending := rfl
@[simp] theorem State.statusWrite_lutHdr : (s.statusWrite data).lutHdr = s.lutHdr := rfl
@[simp] theorem State.statusWrite_lutCode : (s.statusWrite data).lutCode = s.lutCode := rfl
@[simp] theorem State.statusWrite_rom : (s.statusWrite data).rom = s.rom := rfl
@[simp] theorem State.statusWrite_symbuf : (s.statusWrite data).symbuf = s.symbuf := rfl
@[simp] theorem State.statusWrite_bitbuf : (s.statusWrite data).bitbuf = s.bitbuf := rfl
@[simp] theorem State.statusWrite_modelFault : (s.statusWrite data).modelFault = s.modelFault := rfl
@[simp] theorem State.statusWrite_rdata : (s.statusWrite data).rdata = s.rdata := rfl
@[simp] theorem State.statusWrite_err : (s.statusWrite data).err = s.err := rfl
@[simp] theorem State.statusWrite_schedule : (s.statusWrite data).schedule = s.schedule := rfl
@[simp] theorem State.statusWrite_fresh : (s.statusWrite data).fresh = s.fresh := rfl

end StatusWrite

section SetModelFault
variable (s : State) (f : Fault)
@[simp] theorem State.setModelFault_cfg : (s.setModelFault f).cfg = s.cfg := rfl
@[simp] theorem State.setModelFault_encNsym : (s.setModelFault f).encNsym = s.encNsym := rfl
@[simp] theorem State.setModelFault_decNsym : (s.setModelFault f).decNsym = s.decNsym := rfl
@[simp] theorem State.setModelFault_decNbits : (s.setModelFault f).decNbits = s.decNbits := rfl
@[simp] theorem State.setModelFault_treeValid : (s.setModelFault f).treeValid = s.treeValid := rfl
@[simp] theorem State.setModelFault_treeRoot : (s.setModelFault f).treeRoot = s.treeRoot := rfl
@[simp] theorem State.setModelFault_encBitlen : (s.setModelFault f).encBitlen = s.encBitlen := rfl
@[simp] theorem State.setModelFault_encBytelen : (s.setModelFault f).encBytelen = s.encBytelen := rfl
@[simp] theorem State.setModelFault_decBitsUsed : (s.setModelFault f).decBitsUsed = s.decBitsUsed := rfl
@[simp] theorem State.setModelFault_errInfo : (s.setModelFault f).errInfo = s.errInfo := rfl
@[simp] theorem State.setModelFault_done : (s.setModelFault f).done = s.done := rfl
@[simp] theorem State.setModelFault_fail : (s.setModelFault f).fail = s.fail := rfl
@[simp] theorem State.setModelFault_cause : (s.setModelFault f).cause = s.cause := rfl
@[simp] theorem State.setModelFault_ovr : (s.setModelFault f).ovr = s.ovr := rfl
@[simp] theorem State.setModelFault_busErr : (s.setModelFault f).busErr = s.busErr := rfl
@[simp] theorem State.setModelFault_pending : (s.setModelFault f).pending = s.pending := rfl
@[simp] theorem State.setModelFault_lutHdr : (s.setModelFault f).lutHdr = s.lutHdr := rfl
@[simp] theorem State.setModelFault_lutCode : (s.setModelFault f).lutCode = s.lutCode := rfl
@[simp] theorem State.setModelFault_rom : (s.setModelFault f).rom = s.rom := rfl
@[simp] theorem State.setModelFault_symbuf : (s.setModelFault f).symbuf = s.symbuf := rfl
@[simp] theorem State.setModelFault_bitbuf : (s.setModelFault f).bitbuf = s.bitbuf := rfl
@[simp] theorem State.setModelFault_modelFault : (s.setModelFault f).modelFault = (match s.modelFault with | some g => some g | none => some f) := rfl
@[simp] theorem State.setModelFault_rdata : (s.setModelFault f).rdata = s.rdata := rfl
@[simp] theorem State.setModelFault_err : (s.setModelFault f).err = s.err := rfl
@[simp] theorem State.setModelFault_schedule : (s.setModelFault f).schedule = s.schedule := rfl
@[simp] theorem State.setModelFault_fresh : (s.setModelFault f).fresh = s.fresh := rfl

end SetModelFault

section RespondRead
variable (s : State) (v : Word)
@[simp] theorem State.respondRead_cfg : (s.respondRead v).cfg = s.cfg := rfl
@[simp] theorem State.respondRead_encNsym : (s.respondRead v).encNsym = s.encNsym := rfl
@[simp] theorem State.respondRead_decNsym : (s.respondRead v).decNsym = s.decNsym := rfl
@[simp] theorem State.respondRead_decNbits : (s.respondRead v).decNbits = s.decNbits := rfl
@[simp] theorem State.respondRead_treeValid : (s.respondRead v).treeValid = s.treeValid := rfl
@[simp] theorem State.respondRead_treeRoot : (s.respondRead v).treeRoot = s.treeRoot := rfl
@[simp] theorem State.respondRead_encBitlen : (s.respondRead v).encBitlen = s.encBitlen := rfl
@[simp] theorem State.respondRead_encBytelen : (s.respondRead v).encBytelen = s.encBytelen := rfl
@[simp] theorem State.respondRead_decBitsUsed : (s.respondRead v).decBitsUsed = s.decBitsUsed := rfl
@[simp] theorem State.respondRead_errInfo : (s.respondRead v).errInfo = s.errInfo := rfl
@[simp] theorem State.respondRead_done : (s.respondRead v).done = s.done := rfl
@[simp] theorem State.respondRead_fail : (s.respondRead v).fail = s.fail := rfl
@[simp] theorem State.respondRead_cause : (s.respondRead v).cause = s.cause := rfl
@[simp] theorem State.respondRead_ovr : (s.respondRead v).ovr = s.ovr := rfl
@[simp] theorem State.respondRead_busErr : (s.respondRead v).busErr = s.busErr := rfl
@[simp] theorem State.respondRead_pending : (s.respondRead v).pending = s.pending := rfl
@[simp] theorem State.respondRead_lutHdr : (s.respondRead v).lutHdr = s.lutHdr := rfl
@[simp] theorem State.respondRead_lutCode : (s.respondRead v).lutCode = s.lutCode := rfl
@[simp] theorem State.respondRead_rom : (s.respondRead v).rom = s.rom := rfl
@[simp] theorem State.respondRead_symbuf : (s.respondRead v).symbuf = s.symbuf := rfl
@[simp] theorem State.respondRead_bitbuf : (s.respondRead v).bitbuf = s.bitbuf := rfl
@[simp] theorem State.respondRead_modelFault : (s.respondRead v).modelFault = s.modelFault := rfl
@[simp] theorem State.respondRead_rdata : (s.respondRead v).rdata = v := rfl
@[simp] theorem State.respondRead_err : (s.respondRead v).err = false := rfl
@[simp] theorem State.respondRead_schedule : (s.respondRead v).schedule = s.schedule := rfl
@[simp] theorem State.respondRead_fresh : (s.respondRead v).fresh = s.fresh := rfl

end RespondRead

section RespondWrite
variable (s : State)
@[simp] theorem State.respondWrite_cfg : (s.respondWrite).cfg = s.cfg := rfl
@[simp] theorem State.respondWrite_encNsym : (s.respondWrite).encNsym = s.encNsym := rfl
@[simp] theorem State.respondWrite_decNsym : (s.respondWrite).decNsym = s.decNsym := rfl
@[simp] theorem State.respondWrite_decNbits : (s.respondWrite).decNbits = s.decNbits := rfl
@[simp] theorem State.respondWrite_treeValid : (s.respondWrite).treeValid = s.treeValid := rfl
@[simp] theorem State.respondWrite_treeRoot : (s.respondWrite).treeRoot = s.treeRoot := rfl
@[simp] theorem State.respondWrite_encBitlen : (s.respondWrite).encBitlen = s.encBitlen := rfl
@[simp] theorem State.respondWrite_encBytelen : (s.respondWrite).encBytelen = s.encBytelen := rfl
@[simp] theorem State.respondWrite_decBitsUsed : (s.respondWrite).decBitsUsed = s.decBitsUsed := rfl
@[simp] theorem State.respondWrite_errInfo : (s.respondWrite).errInfo = s.errInfo := rfl
@[simp] theorem State.respondWrite_done : (s.respondWrite).done = s.done := rfl
@[simp] theorem State.respondWrite_fail : (s.respondWrite).fail = s.fail := rfl
@[simp] theorem State.respondWrite_cause : (s.respondWrite).cause = s.cause := rfl
@[simp] theorem State.respondWrite_ovr : (s.respondWrite).ovr = s.ovr := rfl
@[simp] theorem State.respondWrite_busErr : (s.respondWrite).busErr = s.busErr := rfl
@[simp] theorem State.respondWrite_pending : (s.respondWrite).pending = s.pending := rfl
@[simp] theorem State.respondWrite_lutHdr : (s.respondWrite).lutHdr = s.lutHdr := rfl
@[simp] theorem State.respondWrite_lutCode : (s.respondWrite).lutCode = s.lutCode := rfl
@[simp] theorem State.respondWrite_rom : (s.respondWrite).rom = s.rom := rfl
@[simp] theorem State.respondWrite_symbuf : (s.respondWrite).symbuf = s.symbuf := rfl
@[simp] theorem State.respondWrite_bitbuf : (s.respondWrite).bitbuf = s.bitbuf := rfl
@[simp] theorem State.respondWrite_modelFault : (s.respondWrite).modelFault = s.modelFault := rfl
@[simp] theorem State.respondWrite_rdata : (s.respondWrite).rdata = s.rdata := rfl
@[simp] theorem State.respondWrite_err : (s.respondWrite).err = false := rfl
@[simp] theorem State.respondWrite_schedule : (s.respondWrite).schedule = s.schedule := rfl
@[simp] theorem State.respondWrite_fresh : (s.respondWrite).fresh = s.fresh := rfl

end RespondWrite

section BusErrorRead
variable (s : State)
@[simp] theorem State.busErrorRead_cfg : (s.busErrorRead).cfg = s.cfg := rfl
@[simp] theorem State.busErrorRead_encNsym : (s.busErrorRead).encNsym = s.encNsym := rfl
@[simp] theorem State.busErrorRead_decNsym : (s.busErrorRead).decNsym = s.decNsym := rfl
@[simp] theorem State.busErrorRead_decNbits : (s.busErrorRead).decNbits = s.decNbits := rfl
@[simp] theorem State.busErrorRead_treeValid : (s.busErrorRead).treeValid = s.treeValid := rfl
@[simp] theorem State.busErrorRead_treeRoot : (s.busErrorRead).treeRoot = s.treeRoot := rfl
@[simp] theorem State.busErrorRead_encBitlen : (s.busErrorRead).encBitlen = s.encBitlen := rfl
@[simp] theorem State.busErrorRead_encBytelen : (s.busErrorRead).encBytelen = s.encBytelen := rfl
@[simp] theorem State.busErrorRead_decBitsUsed : (s.busErrorRead).decBitsUsed = s.decBitsUsed := rfl
@[simp] theorem State.busErrorRead_errInfo : (s.busErrorRead).errInfo = s.errInfo := rfl
@[simp] theorem State.busErrorRead_done : (s.busErrorRead).done = s.done := rfl
@[simp] theorem State.busErrorRead_fail : (s.busErrorRead).fail = s.fail := rfl
@[simp] theorem State.busErrorRead_cause : (s.busErrorRead).cause = s.cause := rfl
@[simp] theorem State.busErrorRead_ovr : (s.busErrorRead).ovr = s.ovr := rfl
@[simp] theorem State.busErrorRead_busErr : (s.busErrorRead).busErr = true := rfl
@[simp] theorem State.busErrorRead_pending : (s.busErrorRead).pending = s.pending := rfl
@[simp] theorem State.busErrorRead_lutHdr : (s.busErrorRead).lutHdr = s.lutHdr := rfl
@[simp] theorem State.busErrorRead_lutCode : (s.busErrorRead).lutCode = s.lutCode := rfl
@[simp] theorem State.busErrorRead_rom : (s.busErrorRead).rom = s.rom := rfl
@[simp] theorem State.busErrorRead_symbuf : (s.busErrorRead).symbuf = s.symbuf := rfl
@[simp] theorem State.busErrorRead_bitbuf : (s.busErrorRead).bitbuf = s.bitbuf := rfl
@[simp] theorem State.busErrorRead_modelFault : (s.busErrorRead).modelFault = s.modelFault := rfl
@[simp] theorem State.busErrorRead_rdata : (s.busErrorRead).rdata = 0 := rfl
@[simp] theorem State.busErrorRead_err : (s.busErrorRead).err = true := rfl
@[simp] theorem State.busErrorRead_schedule : (s.busErrorRead).schedule = s.schedule := rfl
@[simp] theorem State.busErrorRead_fresh : (s.busErrorRead).fresh = s.fresh := rfl

end BusErrorRead

section BusErrorWrite
variable (s : State)
@[simp] theorem State.busErrorWrite_cfg : (s.busErrorWrite).cfg = s.cfg := rfl
@[simp] theorem State.busErrorWrite_encNsym : (s.busErrorWrite).encNsym = s.encNsym := rfl
@[simp] theorem State.busErrorWrite_decNsym : (s.busErrorWrite).decNsym = s.decNsym := rfl
@[simp] theorem State.busErrorWrite_decNbits : (s.busErrorWrite).decNbits = s.decNbits := rfl
@[simp] theorem State.busErrorWrite_treeValid : (s.busErrorWrite).treeValid = s.treeValid := rfl
@[simp] theorem State.busErrorWrite_treeRoot : (s.busErrorWrite).treeRoot = s.treeRoot := rfl
@[simp] theorem State.busErrorWrite_encBitlen : (s.busErrorWrite).encBitlen = s.encBitlen := rfl
@[simp] theorem State.busErrorWrite_encBytelen : (s.busErrorWrite).encBytelen = s.encBytelen := rfl
@[simp] theorem State.busErrorWrite_decBitsUsed : (s.busErrorWrite).decBitsUsed = s.decBitsUsed := rfl
@[simp] theorem State.busErrorWrite_errInfo : (s.busErrorWrite).errInfo = s.errInfo := rfl
@[simp] theorem State.busErrorWrite_done : (s.busErrorWrite).done = s.done := rfl
@[simp] theorem State.busErrorWrite_fail : (s.busErrorWrite).fail = s.fail := rfl
@[simp] theorem State.busErrorWrite_cause : (s.busErrorWrite).cause = s.cause := rfl
@[simp] theorem State.busErrorWrite_ovr : (s.busErrorWrite).ovr = s.ovr := rfl
@[simp] theorem State.busErrorWrite_busErr : (s.busErrorWrite).busErr = true := rfl
@[simp] theorem State.busErrorWrite_pending : (s.busErrorWrite).pending = s.pending := rfl
@[simp] theorem State.busErrorWrite_lutHdr : (s.busErrorWrite).lutHdr = s.lutHdr := rfl
@[simp] theorem State.busErrorWrite_lutCode : (s.busErrorWrite).lutCode = s.lutCode := rfl
@[simp] theorem State.busErrorWrite_rom : (s.busErrorWrite).rom = s.rom := rfl
@[simp] theorem State.busErrorWrite_symbuf : (s.busErrorWrite).symbuf = s.symbuf := rfl
@[simp] theorem State.busErrorWrite_bitbuf : (s.busErrorWrite).bitbuf = s.bitbuf := rfl
@[simp] theorem State.busErrorWrite_modelFault : (s.busErrorWrite).modelFault = s.modelFault := rfl
@[simp] theorem State.busErrorWrite_rdata : (s.busErrorWrite).rdata = s.rdata := rfl
@[simp] theorem State.busErrorWrite_err : (s.busErrorWrite).err = true := rfl
@[simp] theorem State.busErrorWrite_schedule : (s.busErrorWrite).schedule = s.schedule := rfl
@[simp] theorem State.busErrorWrite_fresh : (s.busErrorWrite).fresh = s.fresh := rfl

end BusErrorWrite

section UninitHostRead
variable (s : State) (f : Fault)
@[simp] theorem State.uninitHostRead_cfg : (s.uninitHostRead f).cfg = s.cfg := rfl
@[simp] theorem State.uninitHostRead_encNsym : (s.uninitHostRead f).encNsym = s.encNsym := rfl
@[simp] theorem State.uninitHostRead_decNsym : (s.uninitHostRead f).decNsym = s.decNsym := rfl
@[simp] theorem State.uninitHostRead_decNbits : (s.uninitHostRead f).decNbits = s.decNbits := rfl
@[simp] theorem State.uninitHostRead_treeValid : (s.uninitHostRead f).treeValid = s.treeValid := rfl
@[simp] theorem State.uninitHostRead_treeRoot : (s.uninitHostRead f).treeRoot = s.treeRoot := rfl
@[simp] theorem State.uninitHostRead_encBitlen : (s.uninitHostRead f).encBitlen = s.encBitlen := rfl
@[simp] theorem State.uninitHostRead_encBytelen : (s.uninitHostRead f).encBytelen = s.encBytelen := rfl
@[simp] theorem State.uninitHostRead_decBitsUsed : (s.uninitHostRead f).decBitsUsed = s.decBitsUsed := rfl
@[simp] theorem State.uninitHostRead_errInfo : (s.uninitHostRead f).errInfo = s.errInfo := rfl
@[simp] theorem State.uninitHostRead_done : (s.uninitHostRead f).done = s.done := rfl
@[simp] theorem State.uninitHostRead_fail : (s.uninitHostRead f).fail = s.fail := rfl
@[simp] theorem State.uninitHostRead_cause : (s.uninitHostRead f).cause = s.cause := rfl
@[simp] theorem State.uninitHostRead_ovr : (s.uninitHostRead f).ovr = s.ovr := rfl
@[simp] theorem State.uninitHostRead_busErr : (s.uninitHostRead f).busErr = s.busErr := rfl
@[simp] theorem State.uninitHostRead_pending : (s.uninitHostRead f).pending = s.pending := rfl
@[simp] theorem State.uninitHostRead_lutHdr : (s.uninitHostRead f).lutHdr = s.lutHdr := rfl
@[simp] theorem State.uninitHostRead_lutCode : (s.uninitHostRead f).lutCode = s.lutCode := rfl
@[simp] theorem State.uninitHostRead_rom : (s.uninitHostRead f).rom = s.rom := rfl
@[simp] theorem State.uninitHostRead_symbuf : (s.uninitHostRead f).symbuf = s.symbuf := rfl
@[simp] theorem State.uninitHostRead_bitbuf : (s.uninitHostRead f).bitbuf = s.bitbuf := rfl
@[simp] theorem State.uninitHostRead_modelFault : (s.uninitHostRead f).modelFault = (match s.modelFault with | some g => some g | none => some f) := rfl
@[simp] theorem State.uninitHostRead_rdata : (s.uninitHostRead f).rdata = Config.freeRead s.fresh := rfl
@[simp] theorem State.uninitHostRead_err : (s.uninitHostRead f).err = false := rfl
@[simp] theorem State.uninitHostRead_schedule : (s.uninitHostRead f).schedule = s.schedule := rfl
@[simp] theorem State.uninitHostRead_fresh : (s.uninitHostRead f).fresh = s.fresh + 1 := rfl

end UninitHostRead

section Accept
variable (s : State) (w : Word)
@[simp] theorem State.accept_cfg : (s.accept w).cfg = s.cfg := rfl
@[simp] theorem State.accept_encNsym : (s.accept w).encNsym = s.encNsym := rfl
@[simp] theorem State.accept_decNsym : (s.accept w).decNsym = s.decNsym := rfl
@[simp] theorem State.accept_decNbits : (s.accept w).decNbits = s.decNbits := rfl
@[simp] theorem State.accept_treeValid : (s.accept w).treeValid = s.treeValid := rfl
@[simp] theorem State.accept_treeRoot : (s.accept w).treeRoot = s.treeRoot := rfl
@[simp] theorem State.accept_encBitlen : (s.accept w).encBitlen = s.encBitlen := rfl
@[simp] theorem State.accept_encBytelen : (s.accept w).encBytelen = s.encBytelen := rfl
@[simp] theorem State.accept_decBitsUsed : (s.accept w).decBitsUsed = s.decBitsUsed := rfl
@[simp] theorem State.accept_errInfo : (s.accept w).errInfo = 0 := rfl
@[simp] theorem State.accept_done : (s.accept w).done = false := rfl
@[simp] theorem State.accept_fail : (s.accept w).fail = false := rfl
@[simp] theorem State.accept_cause : (s.accept w).cause = .none := rfl
@[simp] theorem State.accept_ovr : (s.accept w).ovr = s.ovr := rfl
@[simp] theorem State.accept_busErr : (s.accept w).busErr = s.busErr := rfl
@[simp] theorem State.accept_pending : (s.accept w).pending = some w := rfl
@[simp] theorem State.accept_lutHdr : (s.accept w).lutHdr = s.lutHdr := rfl
@[simp] theorem State.accept_lutCode : (s.accept w).lutCode = s.lutCode := rfl
@[simp] theorem State.accept_rom : (s.accept w).rom = s.rom := rfl
@[simp] theorem State.accept_symbuf : (s.accept w).symbuf = s.symbuf := rfl
@[simp] theorem State.accept_bitbuf : (s.accept w).bitbuf = s.bitbuf := rfl
@[simp] theorem State.accept_modelFault : (s.accept w).modelFault = s.modelFault := rfl
@[simp] theorem State.accept_rdata : (s.accept w).rdata = s.rdata := rfl
@[simp] theorem State.accept_err : (s.accept w).err = s.err := rfl
@[simp] theorem State.accept_schedule : (s.accept w).schedule = s.schedule := rfl
@[simp] theorem State.accept_fresh : (s.accept w).fresh = s.fresh := rfl

end Accept

section Overrun
variable (s : State)
@[simp] theorem State.overrun_cfg : (s.overrun).cfg = s.cfg := rfl
@[simp] theorem State.overrun_encNsym : (s.overrun).encNsym = s.encNsym := rfl
@[simp] theorem State.overrun_decNsym : (s.overrun).decNsym = s.decNsym := rfl
@[simp] theorem State.overrun_decNbits : (s.overrun).decNbits = s.decNbits := rfl
@[simp] theorem State.overrun_treeValid : (s.overrun).treeValid = s.treeValid := rfl
@[simp] theorem State.overrun_treeRoot : (s.overrun).treeRoot = s.treeRoot := rfl
@[simp] theorem State.overrun_encBitlen : (s.overrun).encBitlen = s.encBitlen := rfl
@[simp] theorem State.overrun_encBytelen : (s.overrun).encBytelen = s.encBytelen := rfl
@[simp] theorem State.overrun_decBitsUsed : (s.overrun).decBitsUsed = s.decBitsUsed := rfl
@[simp] theorem State.overrun_errInfo : (s.overrun).errInfo = s.errInfo := rfl
@[simp] theorem State.overrun_done : (s.overrun).done = s.done := rfl
@[simp] theorem State.overrun_fail : (s.overrun).fail = s.fail := rfl
@[simp] theorem State.overrun_cause : (s.overrun).cause = s.cause := rfl
@[simp] theorem State.overrun_ovr : (s.overrun).ovr = true := rfl
@[simp] theorem State.overrun_busErr : (s.overrun).busErr = s.busErr := rfl
@[simp] theorem State.overrun_pending : (s.overrun).pending = s.pending := rfl
@[simp] theorem State.overrun_lutHdr : (s.overrun).lutHdr = s.lutHdr := rfl
@[simp] theorem State.overrun_lutCode : (s.overrun).lutCode = s.lutCode := rfl
@[simp] theorem State.overrun_rom : (s.overrun).rom = s.rom := rfl
@[simp] theorem State.overrun_symbuf : (s.overrun).symbuf = s.symbuf := rfl
@[simp] theorem State.overrun_bitbuf : (s.overrun).bitbuf = s.bitbuf := rfl
@[simp] theorem State.overrun_modelFault : (s.overrun).modelFault = s.modelFault := rfl
@[simp] theorem State.overrun_rdata : (s.overrun).rdata = s.rdata := rfl
@[simp] theorem State.overrun_err : (s.overrun).err = s.err := rfl
@[simp] theorem State.overrun_schedule : (s.overrun).schedule = s.schedule := rfl
@[simp] theorem State.overrun_fresh : (s.overrun).fresh = s.fresh := rfl

end Overrun

section Succeed
variable (s : State)
@[simp] theorem State.succeed_cfg : (s.succeed).cfg = s.cfg := rfl
@[simp] theorem State.succeed_encNsym : (s.succeed).encNsym = s.encNsym := rfl
@[simp] theorem State.succeed_decNsym : (s.succeed).decNsym = s.decNsym := rfl
@[simp] theorem State.succeed_decNbits : (s.succeed).decNbits = s.decNbits := rfl
@[simp] theorem State.succeed_treeValid : (s.succeed).treeValid = s.treeValid := rfl
@[simp] theorem State.succeed_treeRoot : (s.succeed).treeRoot = s.treeRoot := rfl
@[simp] theorem State.succeed_encBitlen : (s.succeed).encBitlen = s.encBitlen := rfl
@[simp] theorem State.succeed_encBytelen : (s.succeed).encBytelen = s.encBytelen := rfl
@[simp] theorem State.succeed_decBitsUsed : (s.succeed).decBitsUsed = s.decBitsUsed := rfl
@[simp] theorem State.succeed_errInfo : (s.succeed).errInfo = 0 := rfl
@[simp] theorem State.succeed_done : (s.succeed).done = true := rfl
@[simp] theorem State.succeed_fail : (s.succeed).fail = false := rfl
@[simp] theorem State.succeed_cause : (s.succeed).cause = .none := rfl
@[simp] theorem State.succeed_ovr : (s.succeed).ovr = s.ovr := rfl
@[simp] theorem State.succeed_busErr : (s.succeed).busErr = s.busErr := rfl
@[simp] theorem State.succeed_pending : (s.succeed).pending = none := rfl
@[simp] theorem State.succeed_lutHdr : (s.succeed).lutHdr = s.lutHdr := rfl
@[simp] theorem State.succeed_lutCode : (s.succeed).lutCode = s.lutCode := rfl
@[simp] theorem State.succeed_rom : (s.succeed).rom = s.rom := rfl
@[simp] theorem State.succeed_symbuf : (s.succeed).symbuf = s.symbuf := rfl
@[simp] theorem State.succeed_bitbuf : (s.succeed).bitbuf = s.bitbuf := rfl
@[simp] theorem State.succeed_modelFault : (s.succeed).modelFault = s.modelFault := rfl
@[simp] theorem State.succeed_rdata : (s.succeed).rdata = s.rdata := rfl
@[simp] theorem State.succeed_err : (s.succeed).err = s.err := rfl
@[simp] theorem State.succeed_schedule : (s.succeed).schedule = s.schedule := rfl
@[simp] theorem State.succeed_fresh : (s.succeed).fresh = s.fresh := rfl

end Succeed

section Raise
variable (s : State) (c : Cause) (info : Word)
@[simp] theorem State.raise_cfg : (s.raise c info).cfg = s.cfg := rfl
@[simp] theorem State.raise_encNsym : (s.raise c info).encNsym = s.encNsym := rfl
@[simp] theorem State.raise_decNsym : (s.raise c info).decNsym = s.decNsym := rfl
@[simp] theorem State.raise_decNbits : (s.raise c info).decNbits = s.decNbits := rfl
@[simp] theorem State.raise_treeValid : (s.raise c info).treeValid = s.treeValid := rfl
@[simp] theorem State.raise_treeRoot : (s.raise c info).treeRoot = s.treeRoot := rfl
@[simp] theorem State.raise_encBitlen : (s.raise c info).encBitlen = s.encBitlen := rfl
@[simp] theorem State.raise_encBytelen : (s.raise c info).encBytelen = s.encBytelen := rfl
@[simp] theorem State.raise_decBitsUsed : (s.raise c info).decBitsUsed = s.decBitsUsed := rfl
@[simp] theorem State.raise_errInfo : (s.raise c info).errInfo = info := rfl
@[simp] theorem State.raise_done : (s.raise c info).done = true := rfl
@[simp] theorem State.raise_fail : (s.raise c info).fail = true := rfl
@[simp] theorem State.raise_cause : (s.raise c info).cause = c := rfl
@[simp] theorem State.raise_ovr : (s.raise c info).ovr = s.ovr := rfl
@[simp] theorem State.raise_busErr : (s.raise c info).busErr = s.busErr := rfl
@[simp] theorem State.raise_pending : (s.raise c info).pending = none := rfl
@[simp] theorem State.raise_lutHdr : (s.raise c info).lutHdr = s.lutHdr := rfl
@[simp] theorem State.raise_lutCode : (s.raise c info).lutCode = s.lutCode := rfl
@[simp] theorem State.raise_rom : (s.raise c info).rom = s.rom := rfl
@[simp] theorem State.raise_symbuf : (s.raise c info).symbuf = s.symbuf := rfl
@[simp] theorem State.raise_bitbuf : (s.raise c info).bitbuf = s.bitbuf := rfl
@[simp] theorem State.raise_modelFault : (s.raise c info).modelFault = s.modelFault := rfl
@[simp] theorem State.raise_rdata : (s.raise c info).rdata = s.rdata := rfl
@[simp] theorem State.raise_err : (s.raise c info).err = s.err := rfl
@[simp] theorem State.raise_schedule : (s.raise c info).schedule = s.schedule := rfl
@[simp] theorem State.raise_fresh : (s.raise c info).fresh = s.fresh := rfl

end Raise

section EngineFault
variable (s : State) (f : Fault) (r : FinishRegs)
@[simp] theorem State.engineFault_cfg : (s.engineFault f r).cfg = s.cfg := rfl
@[simp] theorem State.engineFault_encNsym : (s.engineFault f r).encNsym = s.encNsym := rfl
@[simp] theorem State.engineFault_decNsym : (s.engineFault f r).decNsym = s.decNsym := rfl
@[simp] theorem State.engineFault_decNbits : (s.engineFault f r).decNbits = s.decNbits := rfl
@[simp] theorem State.engineFault_treeValid : (s.engineFault f r).treeValid = s.treeValid := rfl
@[simp] theorem State.engineFault_treeRoot : (s.engineFault f r).treeRoot = s.treeRoot := rfl
@[simp] theorem State.engineFault_encBitlen : (s.engineFault f r).encBitlen = s.encBitlen := rfl
@[simp] theorem State.engineFault_encBytelen : (s.engineFault f r).encBytelen = s.encBytelen := rfl
@[simp] theorem State.engineFault_decBitsUsed : (s.engineFault f r).decBitsUsed = s.decBitsUsed := rfl
@[simp] theorem State.engineFault_errInfo : (s.engineFault f r).errInfo = r.errInfo := rfl
@[simp] theorem State.engineFault_done : (s.engineFault f r).done = r.done := rfl
@[simp] theorem State.engineFault_fail : (s.engineFault f r).fail = r.fail := rfl
@[simp] theorem State.engineFault_cause : (s.engineFault f r).cause = r.cause := rfl
@[simp] theorem State.engineFault_ovr : (s.engineFault f r).ovr = s.ovr := rfl
@[simp] theorem State.engineFault_busErr : (s.engineFault f r).busErr = s.busErr := rfl
@[simp] theorem State.engineFault_pending : (s.engineFault f r).pending = none := rfl
@[simp] theorem State.engineFault_lutHdr : (s.engineFault f r).lutHdr = s.lutHdr := rfl
@[simp] theorem State.engineFault_lutCode : (s.engineFault f r).lutCode = s.lutCode := rfl
@[simp] theorem State.engineFault_rom : (s.engineFault f r).rom = s.rom := rfl
@[simp] theorem State.engineFault_symbuf : (s.engineFault f r).symbuf = s.symbuf := rfl
@[simp] theorem State.engineFault_bitbuf : (s.engineFault f r).bitbuf = s.bitbuf := rfl
@[simp] theorem State.engineFault_modelFault : (s.engineFault f r).modelFault = (match s.modelFault with | some g => some g | none => some f) := rfl
@[simp] theorem State.engineFault_rdata : (s.engineFault f r).rdata = s.rdata := rfl
@[simp] theorem State.engineFault_err : (s.engineFault f r).err = s.err := rfl
@[simp] theorem State.engineFault_schedule : (s.engineFault f r).schedule = s.schedule := rfl
@[simp] theorem State.engineFault_fresh : (s.engineFault f r).fresh = s.fresh + 1 := rfl

end EngineFault

section CommitEncode
variable (s : State) (r : EncodeResult)
@[simp] theorem State.commitEncode_cfg : (s.commitEncode r).cfg = s.cfg := rfl
@[simp] theorem State.commitEncode_encNsym : (s.commitEncode r).encNsym = s.encNsym := rfl
@[simp] theorem State.commitEncode_decNsym : (s.commitEncode r).decNsym = s.decNsym := rfl
@[simp] theorem State.commitEncode_decNbits : (s.commitEncode r).decNbits = s.decNbits := rfl
@[simp] theorem State.commitEncode_treeValid : (s.commitEncode r).treeValid = s.treeValid := rfl
@[simp] theorem State.commitEncode_treeRoot : (s.commitEncode r).treeRoot = s.treeRoot := rfl
@[simp] theorem State.commitEncode_encBitlen : (s.commitEncode r).encBitlen = BitVec.ofNat 32 r.total := rfl
@[simp] theorem State.commitEncode_encBytelen : (s.commitEncode r).encBytelen = BitVec.ofNat 32 r.bytes.length := rfl
@[simp] theorem State.commitEncode_decBitsUsed : (s.commitEncode r).decBitsUsed = s.decBitsUsed := rfl
@[simp] theorem State.commitEncode_errInfo : (s.commitEncode r).errInfo = 0 := rfl
@[simp] theorem State.commitEncode_done : (s.commitEncode r).done = true := rfl
@[simp] theorem State.commitEncode_fail : (s.commitEncode r).fail = false := rfl
@[simp] theorem State.commitEncode_cause : (s.commitEncode r).cause = .none := rfl
@[simp] theorem State.commitEncode_ovr : (s.commitEncode r).ovr = s.ovr := rfl
@[simp] theorem State.commitEncode_busErr : (s.commitEncode r).busErr = s.busErr := rfl
@[simp] theorem State.commitEncode_pending : (s.commitEncode r).pending = none := rfl
@[simp] theorem State.commitEncode_lutHdr : (s.commitEncode r).lutHdr = s.lutHdr := rfl
@[simp] theorem State.commitEncode_lutCode : (s.commitEncode r).lutCode = s.lutCode := rfl
@[simp] theorem State.commitEncode_rom : (s.commitEncode r).rom = s.rom := rfl
@[simp] theorem State.commitEncode_symbuf : (s.commitEncode r).symbuf = s.symbuf := rfl
@[simp] theorem State.commitEncode_bitbuf : (s.commitEncode r).bitbuf = Memory.writeFrom s.bitbuf 0 r.bytes := rfl
@[simp] theorem State.commitEncode_modelFault : (s.commitEncode r).modelFault = s.modelFault := rfl
@[simp] theorem State.commitEncode_rdata : (s.commitEncode r).rdata = s.rdata := rfl
@[simp] theorem State.commitEncode_err : (s.commitEncode r).err = s.err := rfl
@[simp] theorem State.commitEncode_schedule : (s.commitEncode r).schedule = s.schedule := rfl
@[simp] theorem State.commitEncode_fresh : (s.commitEncode r).fresh = s.fresh := rfl

end CommitEncode

section FailEncode
variable (s : State) (c : Cause) (info : Word)
@[simp] theorem State.failEncode_cfg : (s.failEncode c info).cfg = s.cfg := rfl
@[simp] theorem State.failEncode_encNsym : (s.failEncode c info).encNsym = s.encNsym := rfl
@[simp] theorem State.failEncode_decNsym : (s.failEncode c info).decNsym = s.decNsym := rfl
@[simp] theorem State.failEncode_decNbits : (s.failEncode c info).decNbits = s.decNbits := rfl
@[simp] theorem State.failEncode_treeValid : (s.failEncode c info).treeValid = s.treeValid := rfl
@[simp] theorem State.failEncode_treeRoot : (s.failEncode c info).treeRoot = s.treeRoot := rfl
@[simp] theorem State.failEncode_encBitlen : (s.failEncode c info).encBitlen = 0 := rfl
@[simp] theorem State.failEncode_encBytelen : (s.failEncode c info).encBytelen = 0 := rfl
@[simp] theorem State.failEncode_decBitsUsed : (s.failEncode c info).decBitsUsed = s.decBitsUsed := rfl
@[simp] theorem State.failEncode_errInfo : (s.failEncode c info).errInfo = info := rfl
@[simp] theorem State.failEncode_done : (s.failEncode c info).done = true := rfl
@[simp] theorem State.failEncode_fail : (s.failEncode c info).fail = true := rfl
@[simp] theorem State.failEncode_cause : (s.failEncode c info).cause = c := rfl
@[simp] theorem State.failEncode_ovr : (s.failEncode c info).ovr = s.ovr := rfl
@[simp] theorem State.failEncode_busErr : (s.failEncode c info).busErr = s.busErr := rfl
@[simp] theorem State.failEncode_pending : (s.failEncode c info).pending = none := rfl
@[simp] theorem State.failEncode_lutHdr : (s.failEncode c info).lutHdr = s.lutHdr := rfl
@[simp] theorem State.failEncode_lutCode : (s.failEncode c info).lutCode = s.lutCode := rfl
@[simp] theorem State.failEncode_rom : (s.failEncode c info).rom = s.rom := rfl
@[simp] theorem State.failEncode_symbuf : (s.failEncode c info).symbuf = s.symbuf := rfl
@[simp] theorem State.failEncode_bitbuf : (s.failEncode c info).bitbuf = s.bitbuf := rfl
@[simp] theorem State.failEncode_modelFault : (s.failEncode c info).modelFault = s.modelFault := rfl
@[simp] theorem State.failEncode_rdata : (s.failEncode c info).rdata = s.rdata := rfl
@[simp] theorem State.failEncode_err : (s.failEncode c info).err = s.err := rfl
@[simp] theorem State.failEncode_schedule : (s.failEncode c info).schedule = s.schedule := rfl
@[simp] theorem State.failEncode_fresh : (s.failEncode c info).fresh = s.fresh := rfl

end FailEncode

section FaultEncode
variable (s : State) (f : Fault)
@[simp] theorem State.faultEncode_cfg : (s.faultEncode f).cfg = s.cfg := rfl
@[simp] theorem State.faultEncode_encNsym : (s.faultEncode f).encNsym = s.encNsym := rfl
@[simp] theorem State.faultEncode_decNsym : (s.faultEncode f).decNsym = s.decNsym := rfl
@[simp] theorem State.faultEncode_decNbits : (s.faultEncode f).decNbits = s.decNbits := rfl
@[simp] theorem State.faultEncode_treeValid : (s.faultEncode f).treeValid = s.treeValid := rfl
@[simp] theorem State.faultEncode_treeRoot : (s.faultEncode f).treeRoot = s.treeRoot := rfl
@[simp] theorem State.faultEncode_encBitlen : (s.faultEncode f).encBitlen = (Config.freeFinish s.fresh).encBitlen := rfl
@[simp] theorem State.faultEncode_encBytelen : (s.faultEncode f).encBytelen = (Config.freeFinish s.fresh).encBytelen := rfl
@[simp] theorem State.faultEncode_decBitsUsed : (s.faultEncode f).decBitsUsed = s.decBitsUsed := rfl
@[simp] theorem State.faultEncode_errInfo : (s.faultEncode f).errInfo = (Config.freeFinish s.fresh).errInfo := rfl
@[simp] theorem State.faultEncode_done : (s.faultEncode f).done = (Config.freeFinish s.fresh).done := rfl
@[simp] theorem State.faultEncode_fail : (s.faultEncode f).fail = (Config.freeFinish s.fresh).fail := rfl
@[simp] theorem State.faultEncode_cause : (s.faultEncode f).cause = (Config.freeFinish s.fresh).cause := rfl
@[simp] theorem State.faultEncode_ovr : (s.faultEncode f).ovr = s.ovr := rfl
@[simp] theorem State.faultEncode_busErr : (s.faultEncode f).busErr = s.busErr := rfl
@[simp] theorem State.faultEncode_pending : (s.faultEncode f).pending = none := rfl
@[simp] theorem State.faultEncode_lutHdr : (s.faultEncode f).lutHdr = s.lutHdr := rfl
@[simp] theorem State.faultEncode_lutCode : (s.faultEncode f).lutCode = s.lutCode := rfl
@[simp] theorem State.faultEncode_rom : (s.faultEncode f).rom = s.rom := rfl
@[simp] theorem State.faultEncode_symbuf : (s.faultEncode f).symbuf = s.symbuf := rfl
@[simp] theorem State.faultEncode_bitbuf : (s.faultEncode f).bitbuf = [] := rfl
@[simp] theorem State.faultEncode_modelFault : (s.faultEncode f).modelFault = (match s.modelFault with | some g => some g | none => some f) := rfl
@[simp] theorem State.faultEncode_rdata : (s.faultEncode f).rdata = s.rdata := rfl
@[simp] theorem State.faultEncode_err : (s.faultEncode f).err = s.err := rfl
@[simp] theorem State.faultEncode_schedule : (s.faultEncode f).schedule = s.schedule := rfl
@[simp] theorem State.faultEncode_fresh : (s.faultEncode f).fresh = s.fresh + 1 := rfl

end FaultEncode

section CommitDecode
variable (s : State) (r : DecodeResult)
@[simp] theorem State.commitDecode_cfg : (s.commitDecode r).cfg = s.cfg := rfl
@[simp] theorem State.commitDecode_encNsym : (s.commitDecode r).encNsym = s.encNsym := rfl
@[simp] theorem State.commitDecode_decNsym : (s.commitDecode r).decNsym = s.decNsym := rfl
@[simp] theorem State.commitDecode_decNbits : (s.commitDecode r).decNbits = s.decNbits := rfl
@[simp] theorem State.commitDecode_treeValid : (s.commitDecode r).treeValid = s.treeValid := rfl
@[simp] theorem State.commitDecode_treeRoot : (s.commitDecode r).treeRoot = s.treeRoot := rfl
@[simp] theorem State.commitDecode_encBitlen : (s.commitDecode r).encBitlen = s.encBitlen := rfl
@[simp] theorem State.commitDecode_encBytelen : (s.commitDecode r).encBytelen = s.encBytelen := rfl
@[simp] theorem State.commitDecode_decBitsUsed : (s.commitDecode r).decBitsUsed = BitVec.ofNat 32 r.bitsUsed := rfl
@[simp] theorem State.commitDecode_errInfo : (s.commitDecode r).errInfo = 0 := rfl
@[simp] theorem State.commitDecode_done : (s.commitDecode r).done = true := rfl
@[simp] theorem State.commitDecode_fail : (s.commitDecode r).fail = false := rfl
@[simp] theorem State.commitDecode_cause : (s.commitDecode r).cause = .none := rfl
@[simp] theorem State.commitDecode_ovr : (s.commitDecode r).ovr = s.ovr := rfl
@[simp] theorem State.commitDecode_busErr : (s.commitDecode r).busErr = s.busErr := rfl
@[simp] theorem State.commitDecode_pending : (s.commitDecode r).pending = none := rfl
@[simp] theorem State.commitDecode_lutHdr : (s.commitDecode r).lutHdr = s.lutHdr := rfl
@[simp] theorem State.commitDecode_lutCode : (s.commitDecode r).lutCode = s.lutCode := rfl
@[simp] theorem State.commitDecode_rom : (s.commitDecode r).rom = s.rom := rfl
@[simp] theorem State.commitDecode_symbuf : (s.commitDecode r).symbuf = Memory.writeFrom s.symbuf 0 r.syms := rfl
@[simp] theorem State.commitDecode_bitbuf : (s.commitDecode r).bitbuf = s.bitbuf := rfl
@[simp] theorem State.commitDecode_modelFault : (s.commitDecode r).modelFault = s.modelFault := rfl
@[simp] theorem State.commitDecode_rdata : (s.commitDecode r).rdata = s.rdata := rfl
@[simp] theorem State.commitDecode_err : (s.commitDecode r).err = s.err := rfl
@[simp] theorem State.commitDecode_schedule : (s.commitDecode r).schedule = s.schedule := rfl
@[simp] theorem State.commitDecode_fresh : (s.commitDecode r).fresh = s.fresh := rfl

end CommitDecode

section FailDecode
variable (s : State) (c : Cause) (info : Word)
@[simp] theorem State.failDecode_cfg : (s.failDecode c info).cfg = s.cfg := rfl
@[simp] theorem State.failDecode_encNsym : (s.failDecode c info).encNsym = s.encNsym := rfl
@[simp] theorem State.failDecode_decNsym : (s.failDecode c info).decNsym = s.decNsym := rfl
@[simp] theorem State.failDecode_decNbits : (s.failDecode c info).decNbits = s.decNbits := rfl
@[simp] theorem State.failDecode_treeValid : (s.failDecode c info).treeValid = s.treeValid := rfl
@[simp] theorem State.failDecode_treeRoot : (s.failDecode c info).treeRoot = s.treeRoot := rfl
@[simp] theorem State.failDecode_encBitlen : (s.failDecode c info).encBitlen = s.encBitlen := rfl
@[simp] theorem State.failDecode_encBytelen : (s.failDecode c info).encBytelen = s.encBytelen := rfl
@[simp] theorem State.failDecode_decBitsUsed : (s.failDecode c info).decBitsUsed = 0 := rfl
@[simp] theorem State.failDecode_errInfo : (s.failDecode c info).errInfo = info := rfl
@[simp] theorem State.failDecode_done : (s.failDecode c info).done = true := rfl
@[simp] theorem State.failDecode_fail : (s.failDecode c info).fail = true := rfl
@[simp] theorem State.failDecode_cause : (s.failDecode c info).cause = c := rfl
@[simp] theorem State.failDecode_ovr : (s.failDecode c info).ovr = s.ovr := rfl
@[simp] theorem State.failDecode_busErr : (s.failDecode c info).busErr = s.busErr := rfl
@[simp] theorem State.failDecode_pending : (s.failDecode c info).pending = none := rfl
@[simp] theorem State.failDecode_lutHdr : (s.failDecode c info).lutHdr = s.lutHdr := rfl
@[simp] theorem State.failDecode_lutCode : (s.failDecode c info).lutCode = s.lutCode := rfl
@[simp] theorem State.failDecode_rom : (s.failDecode c info).rom = s.rom := rfl
@[simp] theorem State.failDecode_symbuf : (s.failDecode c info).symbuf = s.symbuf := rfl
@[simp] theorem State.failDecode_bitbuf : (s.failDecode c info).bitbuf = s.bitbuf := rfl
@[simp] theorem State.failDecode_modelFault : (s.failDecode c info).modelFault = s.modelFault := rfl
@[simp] theorem State.failDecode_rdata : (s.failDecode c info).rdata = s.rdata := rfl
@[simp] theorem State.failDecode_err : (s.failDecode c info).err = s.err := rfl
@[simp] theorem State.failDecode_schedule : (s.failDecode c info).schedule = s.schedule := rfl
@[simp] theorem State.failDecode_fresh : (s.failDecode c info).fresh = s.fresh := rfl

end FailDecode

section FaultDecode
variable (s : State) (f : Fault)
@[simp] theorem State.faultDecode_cfg : (s.faultDecode f).cfg = s.cfg := rfl
@[simp] theorem State.faultDecode_encNsym : (s.faultDecode f).encNsym = s.encNsym := rfl
@[simp] theorem State.faultDecode_decNsym : (s.faultDecode f).decNsym = s.decNsym := rfl
@[simp] theorem State.faultDecode_decNbits : (s.faultDecode f).decNbits = s.decNbits := rfl
@[simp] theorem State.faultDecode_treeValid : (s.faultDecode f).treeValid = s.treeValid := rfl
@[simp] theorem State.faultDecode_treeRoot : (s.faultDecode f).treeRoot = s.treeRoot := rfl
@[simp] theorem State.faultDecode_encBitlen : (s.faultDecode f).encBitlen = s.encBitlen := rfl
@[simp] theorem State.faultDecode_encBytelen : (s.faultDecode f).encBytelen = s.encBytelen := rfl
@[simp] theorem State.faultDecode_decBitsUsed : (s.faultDecode f).decBitsUsed = (Config.freeFinish s.fresh).decBitsUsed := rfl
@[simp] theorem State.faultDecode_errInfo : (s.faultDecode f).errInfo = (Config.freeFinish s.fresh).errInfo := rfl
@[simp] theorem State.faultDecode_done : (s.faultDecode f).done = (Config.freeFinish s.fresh).done := rfl
@[simp] theorem State.faultDecode_fail : (s.faultDecode f).fail = (Config.freeFinish s.fresh).fail := rfl
@[simp] theorem State.faultDecode_cause : (s.faultDecode f).cause = (Config.freeFinish s.fresh).cause := rfl
@[simp] theorem State.faultDecode_ovr : (s.faultDecode f).ovr = s.ovr := rfl
@[simp] theorem State.faultDecode_busErr : (s.faultDecode f).busErr = s.busErr := rfl
@[simp] theorem State.faultDecode_pending : (s.faultDecode f).pending = none := rfl
@[simp] theorem State.faultDecode_lutHdr : (s.faultDecode f).lutHdr = s.lutHdr := rfl
@[simp] theorem State.faultDecode_lutCode : (s.faultDecode f).lutCode = s.lutCode := rfl
@[simp] theorem State.faultDecode_rom : (s.faultDecode f).rom = s.rom := rfl
@[simp] theorem State.faultDecode_symbuf : (s.faultDecode f).symbuf = [] := rfl
@[simp] theorem State.faultDecode_bitbuf : (s.faultDecode f).bitbuf = s.bitbuf := rfl
@[simp] theorem State.faultDecode_modelFault : (s.faultDecode f).modelFault = (match s.modelFault with | some g => some g | none => some f) := rfl
@[simp] theorem State.faultDecode_rdata : (s.faultDecode f).rdata = s.rdata := rfl
@[simp] theorem State.faultDecode_err : (s.faultDecode f).err = s.err := rfl
@[simp] theorem State.faultDecode_schedule : (s.faultDecode f).schedule = s.schedule := rfl
@[simp] theorem State.faultDecode_fresh : (s.faultDecode f).fresh = s.fresh + 1 := rfl

end FaultDecode

/-- After a reset every field has its reset value, but for the configuration and the model's own fields. -/
@[simp] theorem State.applyReset_cfg (s : State) : s.applyReset.cfg = s.cfg := rfl
@[simp] theorem State.applyReset_encNsym (s : State) : s.applyReset.encNsym = State.reset.encNsym := rfl
@[simp] theorem State.applyReset_decNsym (s : State) : s.applyReset.decNsym = State.reset.decNsym := rfl
@[simp] theorem State.applyReset_decNbits (s : State) : s.applyReset.decNbits = State.reset.decNbits := rfl
@[simp] theorem State.applyReset_treeValid (s : State) : s.applyReset.treeValid = State.reset.treeValid := rfl
@[simp] theorem State.applyReset_treeRoot (s : State) : s.applyReset.treeRoot = State.reset.treeRoot := rfl
@[simp] theorem State.applyReset_encBitlen (s : State) : s.applyReset.encBitlen = State.reset.encBitlen := rfl
@[simp] theorem State.applyReset_encBytelen (s : State) : s.applyReset.encBytelen = State.reset.encBytelen := rfl
@[simp] theorem State.applyReset_decBitsUsed (s : State) : s.applyReset.decBitsUsed = State.reset.decBitsUsed := rfl
@[simp] theorem State.applyReset_errInfo (s : State) : s.applyReset.errInfo = State.reset.errInfo := rfl
@[simp] theorem State.applyReset_done (s : State) : s.applyReset.done = State.reset.done := rfl
@[simp] theorem State.applyReset_fail (s : State) : s.applyReset.fail = State.reset.fail := rfl
@[simp] theorem State.applyReset_cause (s : State) : s.applyReset.cause = State.reset.cause := rfl
@[simp] theorem State.applyReset_ovr (s : State) : s.applyReset.ovr = State.reset.ovr := rfl
@[simp] theorem State.applyReset_busErr (s : State) : s.applyReset.busErr = State.reset.busErr := rfl
@[simp] theorem State.applyReset_pending (s : State) : s.applyReset.pending = State.reset.pending := rfl
@[simp] theorem State.applyReset_lutHdr (s : State) : s.applyReset.lutHdr = State.reset.lutHdr := rfl
@[simp] theorem State.applyReset_lutCode (s : State) : s.applyReset.lutCode = State.reset.lutCode := rfl
@[simp] theorem State.applyReset_rom (s : State) : s.applyReset.rom = State.reset.rom := rfl
@[simp] theorem State.applyReset_symbuf (s : State) : s.applyReset.symbuf = State.reset.symbuf := rfl
@[simp] theorem State.applyReset_bitbuf (s : State) : s.applyReset.bitbuf = State.reset.bitbuf := rfl
@[simp] theorem State.applyReset_modelFault (s : State) : s.applyReset.modelFault = State.reset.modelFault := rfl
@[simp] theorem State.applyReset_rdata (s : State) : s.applyReset.rdata = State.reset.rdata := rfl
@[simp] theorem State.applyReset_err (s : State) : s.applyReset.err = State.reset.err := rfl
@[simp] theorem State.applyReset_schedule (s : State) : s.applyReset.schedule = s.schedule := rfl
@[simp] theorem State.applyReset_fresh (s : State) : s.applyReset.fresh = s.fresh := rfl

end Sys2Proof.Machine
end

