-- ==== Sys2Proof/Laws/Ops.lean ====
section
/-! SUPPORT. What each shared operation and each meaning can do, said once, for proofs to cite in place of unfolding it. -/

namespace Sys2Proof.Machine

section Reads

variable {α : Type}

theorem written_eq_ok {c : Cell} {o : Option α} {v : α} : written c o = .ok v ↔ o = some v := by
  cases o <;> simp [written]

theorem written_eq_error {c : Cell} {o : Option α} {f : Fault} : written c o = .error f ↔ o = none ∧ f = .uninitRead c := by
  cases o <;> simp [written, eq_comm]

theorem engineRead_eq_ok {e : Except Fault α} {v : α} : engineRead e = .ok v ↔ e = .ok v := by
  cases e <;> simp [engineRead]

/-- An engine read stops only with a model fault, never with a cause. -/
theorem engineRead_eq_error {e : Except Fault α} {x : Stop} : engineRead e = .error x ↔ ∃ f, e = .error f ∧ x = .fault f := by
  cases e <;> simp [engineRead, eq_comm]

end Reads

section Registers

theorem Reg.ofOffset_offset (r : Reg) : Reg.ofOffset r.offset = some r := by cases r <;> decide

theorem Reg.offset_of_ofOffset {off : Nat} {r : Reg} (h : Reg.ofOffset off = some r) : r.offset = off := by
  simpa using List.find?_some h

end Registers

section Bus

theorem State.readTarget_eq_some {s : State} {a : Addr} {l : Loc} :
    s.readTarget a = some l ↔ misaligned a = false ∧ mapped s.cfg a = some l ∧ (s.busy && l.isWindow) = false := by
  unfold State.readTarget
  cases misaligned a <;> cases mapped s.cfg a <;> simp
  rename_i l'
  constructor
  · rintro ⟨h, rfl⟩; exact ⟨rfl, h⟩
  · rintro ⟨rfl, h⟩; exact ⟨h, rfl⟩

theorem State.writeTarget_eq_some {s : State} {a : Addr} {l : Loc} :
    s.writeTarget a = some l ↔ misaligned a = false ∧ mapped s.cfg a = some l ∧ l.isRw = true ∧ s.busy = false := by
  unfold State.writeTarget
  cases misaligned a <;> cases hm : mapped s.cfg a <;> simp
  rename_i l'
  constructor
  · rintro ⟨h, rfl⟩; exact ⟨rfl, h⟩
  · rintro ⟨rfl, h⟩; exact ⟨h, rfl⟩

/-- What RD can do: a bus error, a value, or a free value with the model fault set. -/
theorem execRd_cases (a : Addr) (s : State) :
    (s.readTarget a = none ∧ execRd a s = .next s.busErrorRead) ∨
    (∃ l v, s.readTarget a = some l ∧ s.locValue l = .ok v ∧ execRd a s = .next (s.respondRead v)) ∨
    (∃ l f, s.readTarget a = some l ∧ s.locValue l = .error f ∧ execRd a s = .next (s.uninitHostRead f)) := by
  unfold execRd
  cases ht : s.readTarget a with
  | none => exact .inl ⟨rfl, rfl⟩
  | some l =>
    cases hv : s.locValue l with
    | ok v => exact .inr (.inl ⟨l, v, rfl, hv, by simp [hv]⟩)
    | error f => exact .inr (.inr ⟨l, f, rfl, hv, by simp [hv]⟩)

/-- What WR can do: a STATUS write, a submission, a bus error, or the write of one location. -/
theorem execWr_cases (a : Addr) (d : Word) (s : State) :
    (a.toNat = Reg.status.offset ∧ execWr a d s = .next (s.statusWrite d).respondWrite) ∨
    (a.toNat = Reg.cmd.offset ∧ s.busy = false ∧ execWr a d s = .next (s.accept d).respondWrite) ∨
    (a.toNat = Reg.cmd.offset ∧ s.busy = true ∧ execWr a d s = .next s.overrun.respondWrite) ∨
    (a.toNat ≠ Reg.status.offset ∧ a.toNat ≠ Reg.cmd.offset ∧ s.writeTarget a = none ∧ execWr a d s = .next s.busErrorWrite) ∨
    (∃ l, a.toNat ≠ Reg.status.offset ∧ a.toNat ≠ Reg.cmd.offset ∧ s.writeTarget a = some l ∧
      execWr a d s = .next (s.writeLoc d l).respondWrite) := by
  unfold execWr State.submit
  by_cases h1 : a.toNat = Reg.status.offset
  · exact .inl ⟨h1, by simp [h1]⟩
  · by_cases h2 : a.toNat = Reg.cmd.offset
    · simp only [if_neg h1, if_pos h2]
      cases s.busy
      · exact .inr (.inl ⟨h2, rfl, rfl⟩)
      · exact .inr (.inr (.inl ⟨h2, rfl, rfl⟩))
    · simp only [if_neg h1, if_neg h2]
      cases ht : s.writeTarget a with
      | none => exact .inr (.inr (.inr (.inl ⟨h1, h2, rfl, rfl⟩)))
      | some l => exact .inr (.inr (.inr (.inr ⟨l, h1, h2, rfl, rfl⟩)))

end Bus

section Bitpacker

/-- A bit that does not fill the byte. -/
theorem Packer.packBit_partial {p : Packer} (h : p.nacc + 1 ≠ 8) (b : Bool) :
    p.packBit b = { p with acc := setBit p.acc (7 - p.nacc) b, nacc := p.nacc + 1, total := p.total + 1 } := by
  simp [Packer.packBit, h]

/-- A bit that fills the byte, which moves to the staged output. -/
theorem Packer.packBit_full {p : Packer} (h : p.nacc = 7) (b : Bool) :
    p.packBit b = { acc := 0, nacc := 0, total := p.total + 1, wptr := p.wptr + 1, out := p.out ++ [setBit p.acc 0 b] } := by
  simp [Packer.packBit, Packer.emit, h]

@[simp] theorem Packer.packCode_nil (p : Packer) : p.packCode [] = p := rfl

theorem Packer.packCode_cons (p : Packer) (b : Bool) (c : List Bool) : p.packCode (b :: c) = (p.packBit b).packCode c := rfl

theorem Packer.packCode_append (p : Packer) (c d : List Bool) : p.packCode (c ++ d) = (p.packCode c).packCode d := by
  simp [Packer.packCode, List.foldl_append]

/-- Every packed bit is counted. -/
theorem Packer.packBit_total (p : Packer) (b : Bool) : (p.packBit b).total = p.total + 1 := by
  unfold Packer.packBit Packer.emit
  dsimp only
  split_ifs <;> rfl

theorem Packer.packCode_total (p : Packer) (c : List Bool) : (p.packCode c).total = p.total + c.length := by
  induction c generalizing p with
  | nil => rfl
  | cons b c ih => rw [Packer.packCode_cons, ih, Packer.packBit_total, List.length_cons]; omega

/-- What UNPACK_BIT can do: EMPTY at the limit, a model fault, or a bit of the byte at the position. -/
theorem State.unpackBit_cases (s : State) (u : Unpacker) :
    (u.limit ≤ u.rpos ∧ s.unpackBit u = .ok none) ∨
    (u.rpos < u.limit ∧ Memory.read s.bitbuf (u.rpos / 8) = none ∧
      s.unpackBit u = .error (.uninitRead (.bitbuf (u.rpos / 8)))) ∨
    (∃ v, u.rpos < u.limit ∧ Memory.read s.bitbuf (u.rpos / 8) = some v ∧
      s.unpackBit u = .ok (some (streamBit v u.rpos, { u with rpos := u.rpos + 1 }))) := by
  unfold State.unpackBit State.readBitbuf
  by_cases h : u.limit ≤ u.rpos
  · exact .inl ⟨h, by simp [h]⟩
  · have h' : u.rpos < u.limit := by omega
    cases hb : Memory.read s.bitbuf (u.rpos / 8) with
    | none => exact .inr (.inl ⟨h', rfl, by simp [h, written]⟩)
    | some v => exact .inr (.inr ⟨v, h', rfl, by simp [h, written]⟩)

end Bitpacker

section Encoder

/-- What ENCODE can do, by how its run ends. -/
theorem execEncode_cases (s : State) :
    (∃ r, s.encodeRun = .ok r ∧ execEncode s = .next (s.commitEncode r)) ∨
    (∃ c info, s.encodeRun = .error (.raise c info) ∧ execEncode s = .next (s.failEncode c info)) ∨
    (∃ f, s.encodeRun = .error (.fault f) ∧ execEncode s = .next (s.faultEncode f)) := by
  unfold execEncode
  cases h : s.encodeRun with
  | ok r => exact .inl ⟨r, rfl, rfl⟩
  | error e =>
    cases e with
    | raise c info => exact .inr (.inl ⟨c, info, rfl, rfl⟩)
    | fault f => exact .inr (.inr ⟨f, rfl, rfl⟩)

/-- What a successful run of ENCODE has checked and packed. -/
theorem State.encodeRun_ok {s : State} {r : EncodeResult} (h : s.encodeRun = .ok r) :
    ∃ p, s.encNsym.toNat ≤ s.cfg.symCap ∧ s.checkSymbols 0 s.encNsym.toNat 0 = .ok r.total ∧ r.total ≤ 8 * s.cfg.byteCap ∧
      s.packSymbols 0 s.encNsym.toNat packBegin = .ok p ∧ r.bytes = p.flush.out := by
  unfold State.encodeRun at h
  dsimp only at h
  split_ifs at h with h1
  cases hc : s.checkSymbols 0 s.encNsym.toNat 0 with
  | error e => simp [hc] at h
  | ok total =>
    simp only [hc] at h
    split_ifs at h with h2
    cases hp : s.packSymbols 0 s.encNsym.toNat packBegin with
    | error e => simp [hp] at h
    | ok p =>
      simp only [hp, Except.ok.injEq] at h
      subst h
      exact ⟨p, Nat.le_of_not_lt h1, rfl, Nat.le_of_not_lt h2, rfl, rfl⟩

/-- One symbol of pass 1 that has a usable code. -/
theorem State.checkSymbols_succ_ok {s : State} {i m total t : Nat} (h : s.checkSymbols i (m + 1) total = .ok t) :
    ∃ sym, Memory.read s.symbuf i = some sym ∧ (s.lutHeader sym.toNat).kind s.cfg = .usable ∧
      s.checkSymbols (i + 1) m (total + (s.lutHeader sym.toNat).len.toNat) = .ok t := by
  rw [State.checkSymbols] at h
  cases hr : engineRead (s.readSymbuf i) with
  | error e => simp [hr] at h
  | ok sym =>
    simp only [hr] at h
    cases hk : (s.lutHeader sym.toNat).kind s.cfg with
    | absent => simp [hk] at h
    | bad => simp [hk] at h
    | usable =>
      simp only [hk] at h
      exact ⟨sym, written_eq_ok.1 (engineRead_eq_ok.1 hr), hk, h⟩

/-- One symbol of pass 2. -/
theorem State.packSymbols_succ_ok {s : State} {i m : Nat} {p q : Packer} (h : s.packSymbols i (m + 1) p = .ok q) :
    ∃ sym code, Memory.read s.symbuf i = some sym ∧ s.codeOf sym.toNat = .ok code ∧
      s.packSymbols (i + 1) m (p.packCode code) = .ok q := by
  rw [State.packSymbols] at h
  cases hr : engineRead (s.readSymbuf i) with
  | error e => simp [hr] at h
  | ok sym =>
    simp only [hr] at h
    cases hk : s.codeOf sym.toNat with
    | error e => simp [hk] at h
    | ok code =>
      simp only [hk] at h
      exact ⟨sym, code, written_eq_ok.1 (engineRead_eq_ok.1 hr), hk, h⟩

theorem State.codeBits_length {s : State} {sym : Nat} : ∀ {j m : Nat} {bits : List Bool}, s.codeBits sym j m = .ok bits → bits.length = m
  | _, 0, bits, h => by
    simp only [State.codeBits, Except.ok.injEq] at h
    subst h; rfl
  | j, m + 1, bits, h => by
    rw [State.codeBits] at h
    cases hr : engineRead (s.readLutCode sym (j / 32)) with
    | error e => simp [hr] at h
    | ok w =>
      simp only [hr] at h
      cases hb : s.codeBits sym (j + 1) m with
      | error e => simp [hb] at h
      | ok rest =>
        simp only [hb, Except.ok.injEq] at h
        subst h
        simp [State.codeBits_length hb]

end Encoder

section Decoder

/-- What DECODE can do, by how its run ends. -/
theorem execDecode_cases (s : State) :
    (∃ r, s.decodeRun = .ok r ∧ execDecode s = .next (s.commitDecode r)) ∨
    (∃ c info, s.decodeRun = .error (.raise c info) ∧ execDecode s = .next (s.failDecode c info)) ∨
    (∃ f, s.decodeRun = .error (.fault f) ∧ execDecode s = .next (s.faultDecode f)) := by
  unfold execDecode
  cases h : s.decodeRun with
  | ok r => exact .inl ⟨r, rfl, rfl⟩
  | error e =>
    cases e with
    | raise c info => exact .inr (.inl ⟨c, info, rfl, rfl⟩)
    | fault f => exact .inr (.inr ⟨f, rfl, rfl⟩)

/-- One iteration of the walk that goes on: it consumed the bit at `rpos`, and it either emitted a leaf's symbol and went back to the root or
moved to an internal node. -/
theorem State.walkStep_ok {s : State} {root : NodeIx} {w w' : Walk} (h : s.walkStep root w = .ok w') :
    ∃ v node child, w.up.rpos < w.up.limit ∧ Memory.read s.bitbuf (w.up.rpos / 8) = some v ∧
      Memory.read s.rom w.cur.toNat = some node ∧
      (node.child (streamBit v w.up.rpos)).toNat < s.cfg.nodes ∧
      Memory.read s.rom (node.child (streamBit v w.up.rpos)).toNat = some child ∧
      w'.up = { w.up with rpos := w.up.rpos + 1 } ∧
      ((child.leaf = true ∧ w'.cur = root ∧ w'.k = w.k + 1 ∧ w'.symOut = w.symOut ++ [child.sym s.cfg]) ∨
       (child.leaf = false ∧ w'.cur = node.child (streamBit v w.up.rpos) ∧ w'.k = w.k ∧ w'.symOut = w.symOut)) := by
  unfold State.walkStep at h
  rcases s.unpackBit_cases w.up with ⟨-, hu⟩ | ⟨-, -, hu⟩ | ⟨v, hlt, hb, hu⟩
  · simp [hu, engineRead] at h
  · simp [hu, engineRead] at h
  · simp only [hu, engineRead, State.walkMove] at h
    cases hn : s.readRom w.cur.toNat with
    | error f => simp [hn] at h
    | ok node =>
      simp only [hn] at h
      split_ifs at h with hr
      cases hc : s.readRom (node.child (streamBit v w.up.rpos)).toNat with
      | error f => simp [hc] at h
      | ok child =>
        simp only [hc] at h
        refine ⟨v, node, child, hlt, hb, written_eq_ok.1 hn, by omega, written_eq_ok.1 hc, ?_⟩
        cases hl : child.leaf with
        | true =>
          simp only [hl, if_true, Except.ok.injEq] at h
          subst h
          exact ⟨rfl, .inl ⟨rfl, rfl, rfl, rfl⟩⟩
        | false =>
          simp only [hl, Bool.false_eq_true, if_false, Except.ok.injEq] at h
          subst h
          exact ⟨rfl, .inr ⟨rfl, rfl, rfl, rfl⟩⟩

/-- A walk that has all its symbols stops, whatever the bound. -/
theorem State.walk_done {s : State} {root : NodeIx} {n : Nat} (bound : Nat) {w : Walk} (h : n ≤ w.k) :
    s.walk root n bound w = .ok w := by
  unfold State.walk
  simp [h]

/-- A walk that needs a symbol goes on with one iteration. -/
theorem State.walk_succ {s : State} {root : NodeIx} {n : Nat} (bound : Nat) {w : Walk} (h : w.k < n) :
    s.walk root n (bound + 1) w =
      match s.walkStep root w with
      | .error e => .error e
      | .ok w' => s.walk root n bound w' := by
  cases hw : s.walkStep root w <;>
  · rw [State.walk]
    simp [Nat.not_le.2 h, hw]

end Decoder

section Steps

/-- What a step can be: an instruction's meaning from the state without its schedule entry, a reset, no step, or a refusal. -/
theorem step_cases (s : State) :
    (s.schedule = [] ∧ s.pending = none ∧ step s = .next s) ∨
    (∃ w, s.schedule = [] ∧ s.pending = some w ∧ step s = exec (decodeCmd w) s) ∨
    (∃ rest, s.schedule = .engine :: rest ∧ s.pending = none ∧ step s = .next { s with schedule := rest }) ∨
    (∃ rest w, s.schedule = .engine :: rest ∧ s.pending = some w ∧ step s = exec (decodeCmd w) { s with schedule := rest }) ∨
    (∃ rest w i, s.schedule = .txn w :: rest ∧ decodeTxn w = .ok i ∧ step s = exec i { s with schedule := rest }) ∨
    (∃ rest w e, s.schedule = .txn w :: rest ∧ decodeTxn w = .error e ∧ step s = .refused (.notATransaction w)) ∨
    (∃ rest, s.schedule = .reset :: rest ∧ step s = .next { s with schedule := rest }.applyReset) := by
  unfold step State.fetch
  cases hs : s.schedule with
  | nil =>
    cases hp : s.pending with
    | none => exact .inl ⟨rfl, rfl, by simp [State.fetchCommand, hp]⟩
    | some w => exact .inr (.inl ⟨w, rfl, rfl, by simp [State.fetchCommand, hp]⟩)
  | cons e rest =>
    cases e with
    | engine =>
      cases hp : s.pending with
      | none => exact .inr (.inr (.inl ⟨rest, rfl, rfl, by simp [State.fetchCommand]⟩))
      | some w => exact .inr (.inr (.inr (.inl ⟨rest, w, rfl, rfl, by simp [State.fetchCommand]⟩)))
    | txn w =>
      cases hd : decodeTxn w with
      | ok i => exact .inr (.inr (.inr (.inr (.inl ⟨rest, w, i, rfl, hd, by simp [State.fetchTxn, hd]⟩))))
      | error e => exact .inr (.inr (.inr (.inr (.inr (.inl ⟨rest, w, e, rfl, hd, by simp [State.fetchTxn, hd]⟩)))))
    | reset => exact .inr (.inr (.inr (.inr (.inr (.inr ⟨rest, rfl, rfl⟩)))))

/-- No instruction faults or is refused: each meaning answers a next state from every state. -/
theorem exec_next (i : Instr) (s : State) : ∃ t, exec i s = .next t := by
  cases i <;> exact ⟨_, rfl⟩

end Steps

end Sys2Proof.Machine
end

