-- ==== Sys2Proof/Laws/PerInstr.lean ====
section
/-! SUPPORT. Statements about every instruction as syntax, one lemma for each constructor. Family CodeWidth: a command of the engine is encoded as
a 32-bit command word and a transaction of the host as a 64-bit transaction word (30_encoding.md R65, R78). -/

/-- The instruction is a command word of the engine, not a transaction of the host (spec/opcode_table.json, format CMD). -/
def Sys2Proof.Laws.CodeWidth.isCommand : Sys2Proof.Instr → Bool
  | .nop => true
  | .encode => true
  | .decode => true
  | .clearLut => true
  | .badCmd _ => true
  | .rd _ => false
  | .wr _ _ => false

/-- The format of an instruction's words is that of its row. -/
def Sys2Proof.Laws.CodeWidth.Statement (i : Sys2Proof.Instr) : Prop :=
  Sys2Proof.Laws.CodeWidth.isCommand i = true ↔ ∃ w, Sys2Proof.encode i = Sys2Proof.Code.cmd w

theorem Sys2Proof.Laws.CodeWidth.nop : Sys2Proof.Laws.CodeWidth.Statement .nop :=
  ⟨fun _ => ⟨_, rfl⟩, fun _ => rfl⟩

theorem Sys2Proof.Laws.CodeWidth.encode : Sys2Proof.Laws.CodeWidth.Statement .encode :=
  ⟨fun _ => ⟨_, rfl⟩, fun _ => rfl⟩

theorem Sys2Proof.Laws.CodeWidth.decode : Sys2Proof.Laws.CodeWidth.Statement .decode :=
  ⟨fun _ => ⟨_, rfl⟩, fun _ => rfl⟩

theorem Sys2Proof.Laws.CodeWidth.clearLut : Sys2Proof.Laws.CodeWidth.Statement .clearLut :=
  ⟨fun _ => ⟨_, rfl⟩, fun _ => rfl⟩

theorem Sys2Proof.Laws.CodeWidth.badCmd (w : Sys2Proof.Word) : Sys2Proof.Laws.CodeWidth.Statement (.badCmd w) :=
  ⟨fun _ => ⟨_, rfl⟩, fun _ => rfl⟩

theorem Sys2Proof.Laws.CodeWidth.rd (addr : Sys2Proof.Addr) : Sys2Proof.Laws.CodeWidth.Statement (.rd addr) :=
  ⟨fun h => (nomatch h), fun ⟨_, h⟩ => (nomatch h)⟩

theorem Sys2Proof.Laws.CodeWidth.wr (addr : Sys2Proof.Addr) (data : Sys2Proof.Word) :
    Sys2Proof.Laws.CodeWidth.Statement (.wr addr data) :=
  ⟨fun h => (nomatch h), fun ⟨_, h⟩ => (nomatch h)⟩
end

