-- ==== Sys2Proof/Laws/Safety.lean ====
section
/-! SUPPORT. When a host program has ended, and what a good run of it is (40_host_bus.md R94). -/

namespace Sys2Proof.Machine

@[simp] theorem hostWords_nil : hostWords [] = [] := rfl

@[simp] theorem hostWords_txn (w : TxnWord) (rest : List Event) : hostWords (.txn w :: rest) = w :: hostWords rest := rfl

@[simp] theorem hostWords_engine (rest : List Event) : hostWords (.engine :: rest) = hostWords rest := rfl

@[simp] theorem hostWords_reset (rest : List Event) : hostWords (.reset :: rest) = hostWords rest := rfl

/-- A state from which a good run begins has no model fault. -/
theorem State.goodRun_faultFree {k : Nat} {s t : State} (h : State.goodRun k s t) : s.faultFree := by
  cases k with
  | zero => exact h.2.1
  | succ k => exact h.1

/-- A good final state has ended and has no model fault. -/
theorem State.goodFinal_spec {s t : State} (h : State.goodFinal s t) : t.ended ∧ t.faultFree := by
  obtain ⟨k, h⟩ := h
  induction k generalizing s with
  | zero =>
    obtain ⟨rfl, hf, he⟩ := h
    exact ⟨he, hf⟩
  | succ k ih =>
    obtain ⟨-, -, u, -, hu⟩ := h
    exact ih hu

/-- No run that has reached a model fault has a good final state, whatever follows, a reset included. -/
theorem State.not_goodFinal_of_fault {s t : State} (h : ¬ s.faultFree) : ¬ State.goodFinal s t :=
  fun ⟨_, hk⟩ => h (State.goodRun_faultFree hk)

/-- A run has one good final state at most: the first state in which the host program has ended. -/
theorem State.goodFinal_unique {s t t' : State} (h : State.goodFinal s t) (h' : State.goodFinal s t') : t = t' := by
  obtain ⟨k, h⟩ := h
  obtain ⟨k', h'⟩ := h'
  induction k generalizing s k' with
  | zero =>
    obtain ⟨rfl, -, he⟩ := h
    cases k' with
    | zero => exact h'.1
    | succ k' => exact absurd he h'.2.1
  | succ k ih =>
    obtain ⟨-, hne, u, hu, hk⟩ := h
    cases k' with
    | zero =>
      obtain ⟨rfl, -, he⟩ := h'
      exact absurd he hne
    | succ k' =>
      obtain ⟨-, -, u', hu', hk'⟩ := h'
      obtain rfl : u = u' := by
        rw [hu] at hu'
        exact Host.Outcome.next.inj hu'
      exact ih hk k' hk'

end Sys2Proof.Machine
end

