-- ==== Sys2Proof/Tests/Slice0.lean ====
section
/-! SUPPORT. The model's own tests. Every expected value is one of spec/95_test_vectors.md, or worked by hand from the rule that the test's
comment cites. -/

namespace Sys2Proof.Tests

open Sys2Proof.Machine

/-- A check of the next state that an outcome holds. -/
def onNext (o : Host.Outcome State Fault Refusal) (p : State → Bool) : Bool :=
  match o with
  | .next s => p s
  | .fault _ => false
  | .refused _ => false

/-- A list of values as a memory from index 0. -/
def cells {α : Type} (vs : List α) : Memory α := vs.zipIdx.map fun p => (p.2, p.1)

/-- ABRACADABRA (95_test_vectors.md, program P1). -/
def abra : List Sym := [0x41, 0x42, 0x52, 0x41, 0x43, 0x41, 0x44, 0x41, 0x42, 0x52, 0x41]

/-- The ROM image of ABRACADABRA (42_table_compiler.md R119, worked example). -/
def abraRom : List Word :=
  [0x00020001, 0x80000041, 0x00060003, 0x00050004, 0x80000043, 0x80000044, 0x00080007, 0x80000042, 0x80000052]

/-- The state at the end of P1's loads and P2's loads together: both tables, the sequence in SYMBUF, the stream in BITBUF. -/
def loaded : State :=
  { State.reset with
    lutHdr := [(0x41, ⟨true, 1⟩), (0x42, ⟨true, 3⟩), (0x43, ⟨true, 3⟩), (0x44, ⟨true, 3⟩), (0x52, ⟨true, 3⟩)]
    lutCode := [(lutCodeIndex 0x41 0, 0x00000000), (lutCodeIndex 0x42 0, 0xC0000000), (lutCodeIndex 0x43 0, 0x80000000),
      (lutCodeIndex 0x44 0, 0xA0000000), (lutCodeIndex 0x52 0, 0xE0000000)]
    rom := cells (abraRom.map Node.ofWord)
    symbuf := cells abra
    bitbuf := cells [0x6E, 0x8A, 0xDC]
    treeValid := true
    encNsym := 11
    decNsym := 11
    decNbits := 23 }

/-! ## Well-formedness -/

/-- A reserved command whose word is a named one is ill-formed (30_encoding.md R67). -/
theorem test_wf_refuses_named_words :
    (Instr.badCmd 0x00000000).wf = false ∧ (Instr.badCmd 0x00000001).wf = false ∧ (Instr.badCmd 0x00000002).wf = false ∧
    (Instr.badCmd 0x00000003).wf = false := by decide

theorem test_wf_accepts_reserved_word : (Instr.badCmd 0x00000101).wf = true := by decide

/-! ## Decoding, from words written out from R65, R66 and R78 -/

theorem test_decode_nop : decodeTableWord 32 0b00000000000000000000000000000000 = some .nop := by decide

theorem test_decode_encode : decodeTableWord 32 0b00000000000000000000000000000001 = some .encode := by decide

theorem test_decode_decode : decodeTableWord 32 0b00000000000000000000000000000010 = some .decode := by decide

theorem test_decode_clearLut : decodeTableWord 32 0b00000000000000000000000000000011 = some .clearLut := by decide

/-- OP is ENCODE's, and RSV is 1 (T2.4). -/
theorem test_decode_badCmd : decodeTableWord 32 0b00000000000000000000000100000001 = some (.badCmd 0x101) := by decide

/-- WE = 0, twelve zeros, ADDR = 0x00014, DATA = 0: `RD STATUS` (R78's example). -/
theorem test_decode_rd :
    decodeTableWord 64 0b0000000000000000000000000001010000000000000000000000000000000000 = some (.rd 0x00014) := by decide

/-- WE = 1, twelve zeros, ADDR = 0x11040, DATA = 0x80000001: P1 line 1. -/
theorem test_decode_wr :
    decodeTableWord 64 0b1000000000000001000100000100000010000000000000000000000000000001 = some (.wr 0x11040 0x80000001) := by
  decide

/-- A nonzero must-be-zero bit, and an RD with nonzero DATA, are no transaction (R78). -/
theorem test_decode_rejects :
    decodeTxn 0x8008001000000001 = .error (.mustBeZero 0x8008001000000001) ∧
    decodeTxn 0x0000001400000001 = .error (.readData 0x0000001400000001) := by decide

/-! ## One step of each instruction -/

/-- T2.1: STATUS reads 0x0000_0002 after NOP. -/
theorem test_nop : onNext (step (State.reset.withFetchWord 32 0)) (fun t => t.regValue .status == 0x00000002) = true := by decide

/-- T2.2: after CLEAR_LUT the header of 0x41 reads 0x0000_0001, and the code words stay. -/
theorem test_clearLut :
    onNext (exec .clearLut loaded) (fun t => (t.lutHeader 0x41).toWord == 0x00000001 && t.lutCode == loaded.lutCode) = true := by decide

/-- T2.4: STATUS 0x0001_0006, ERR_INFO the word. -/
theorem test_badCmd :
    onNext (step (State.reset.withFetchWord 32 0x101)) (fun t => t.regValue .status == 0x00010006 && t.errInfo == 0x101) = true := by
  decide

/-- T4.1, and P1's end state. -/
theorem test_encode :
    onNext (exec .encode { loaded with bitbuf := [] }) (fun t => t.regValue .status == 0x00000002 && t.encBitlen == 23 && t.encBytelen == 3 &&
      t.bitbuf == cells [0x6E, 0x8A, 0xDC]) = true := by decide +kernel

/-- T4.2: no code for 0x5A at index 5; BITBUF is unchanged. -/
theorem test_encode_noCode :
    onNext (exec .encode { loaded with symbuf := Memory.write loaded.symbuf 5 0x5A }) (fun t => t.regValue .status == 0x00040006 &&
      t.errInfo == 0x5A000005 && t.encBitlen == 0 && t.bitbuf == cells [0x6E, 0x8A, 0xDC]) = true := by decide +kernel

/-- T5.1, and P2's end state. -/
theorem test_decode :
    onNext (exec .decode { loaded with symbuf := [] }) (fun t => t.regValue .status == 0x00000002 && t.decBitsUsed == 23 &&
      t.symbuf == cells abra) = true := by decide +kernel

/-- T5.2: twelve symbols from 23 bits are exhausted after eleven; SYMBUF is unchanged. -/
theorem test_decode_exhausted :
    onNext (exec .decode { loaded with decNsym := 12 }) (fun t => t.regValue .status == 0x00090006 && t.errInfo == 0x0000000B &&
      t.decBitsUsed == 0 && t.symbuf == cells abra) = true := by decide +kernel

/-- T1.3: CAPS after reset. -/
theorem test_rd_caps : onNext (exec (.rd 0x00008) State.reset) (fun t => t.rdata == 0x10001000 && !t.err) = true := by decide

/-- T1.9: LUT.C[0][8], past CODE_WORDS, is unmapped. -/
theorem test_rd_unmapped :
    onNext (exec (.rd 0x10024) State.reset) (fun t => t.rdata == 0 && t.err && t.regValue .status == 0x00000200) = true := by decide

/-- T1.21: a ROM word stores its 19 bits. -/
theorem test_wr_rom : onNext (exec (.wr 0x20000 0xFFFFFFFF) State.reset) (fun t => t.rom == [(0, ⟨true, 0x1FF, 0x1FF⟩)]) = true := by
  decide

/-- T1.25: a misaligned write near CMD is a bus error and no command. -/
theorem test_wr_misaligned :
    onNext (exec (.wr 0x00013 1) State.reset) (fun t => t.pending == none && t.err && t.regValue .status == 0x00000200) = true := by decide

/-! ## The bitpacker and the table compiler -/

/-- T3.7: a 40-bit code between two one-bit codes. -/
theorem test_pack :
    ((packBegin.packCode ([true] ++ (List.range 40).map (fun j => (0xDEADBEEFA5#40).getLsbD (39 - j)))).packCode [true]).flush.out =
      [0xEF, 0x56, 0xDF, 0x77, 0xD2, 0xC0] := by decide +kernel

/-- T6.1: the ROM image and the codes of ABRACADABRA. -/
theorem test_compile_rom : romImage (buildTree Config.default (countFrequencies (abra.map BitVec.toNat))) = abraRom := by decide +kernel

/-- T6.1: the code "110" of 0x42, as a header and a code word. -/
theorem test_compile_lut :
    lutEntry (generateCodes (buildTree Config.default (countFrequencies (abra.map BitVec.toNat)))) 0x42 =
      { sym := 0x42, header := 0x80000003, words := [0xC0000000] } := by decide +kernel

/-- T6.3: with MAX_LEN = 2 the sequence AAAABBBCCD needs a code of three bits. -/
theorem test_compile_too_long :
    compile { Config.default with maxLen := 2 } [0x41, 0x41, 0x41, 0x41, 0x42, 0x42, 0x42, 0x43, 0x43, 0x44] = .error .codeTooLong := by
  decide +kernel

/-- T6.6, T6.7, and a negative symbol, which is outside `0 .. ALPHABET-1` as well (R107). -/
theorem test_compileFreq_rejects :
    compileFreq Config.default [(0x41, 0)] = .error .invalidCount ∧ compileFreq Config.default [(0x100, 1)] = .error .invalidSymbol ∧
    compileFreq Config.default [(-1, 1)] = .error .invalidSymbol := by decide +kernel

/-- The two forms of loading a small image (42_table_compiler.md R117): every header, or CLEAR_LUT, a wait and the header with V = 1. -/
def smallImages : Images :=
  { lut := [⟨0x41, 0x80000001, [0]⟩, ⟨0x42, 0, []⟩], rom := [0x80000041], treeCfg := 0x80000000 }

theorem test_load_every_header : smallImages.load =
    [0x8001104080000001, 0x8001104400000000, 0x8001108000000000, 0x8002000080000041, 0x8000004080000000] := by decide +kernel

theorem test_load_after_clear : smallImages.loadCleared 0 =
    [0x8000001000000003, 0x0000001400000000, 0x8001104080000001, 0x8001104400000000, 0x8002000080000041, 0x8000004080000000] := by
  decide +kernel

/-- R94: an idle block whose host has issued its last transaction has ended, whatever else is scheduled. -/
theorem test_ended_before_a_reset : { loaded with schedule := [.engine, .reset] }.ended ∧ ¬ { loaded with pending := some 1 }.ended := by
  unfold State.ended
  decide

/-- R77: LDLUT 0x42, 3, "110" is P1's lines 3 and 4. -/
theorem test_ldlut : (Line.ldlut 0x42 3 [true, true, false]).expand = [0x8001108080000003, 0x80011084C0000000] := by decide +kernel

end Sys2Proof.Tests
end

