-- ==== Sys2Proof/Tests/Witnesses.lean ====
section
/-! SUPPORT. A witness for the hypotheses of each statement: a concrete state and operands that meet all of them together, one for each clause.
The values stand at the boundaries of their ranges where there is one. -/

namespace Sys2Proof.Tests

set_option Elab.async false

open Sys2Proof.Machine Sys2Proof.Claims

/-! ## Helpers -/

theorem loaded_cfg_wf : loaded.cfg.wf := by decide

theorem loaded_lutWf : loaded.lutWf := by
  unfold State.lutWf
  decide +kernel

theorem reset_lutWf : State.reset.lutWf := by
  unfold State.lutWf
  decide

/-- `HasCode` from a check that can be computed. -/
theorem hasCode_of_check {s : State} {x : Sym} {c : List Bool}
    (hu : (s.lutHeader x.toNat).v = true ∧ 1 ≤ (s.lutHeader x.toNat).len.toNat ∧ (s.lutHeader x.toNat).len.toNat ≤ s.cfg.maxLen)
    (hl : (s.lutHeader x.toNat).len.toNat = c.length)
    (hb : ∀ j < c.length, (Memory.read s.lutCode (lutCodeIndex x.toNat (j / 32))).map (fun w => w.getLsbD (31 - j % 32)) =
      some (c.getD j false)) : HasCode s x c := by
  refine ⟨hu, hl, fun j hj => ?_⟩
  have h := hb j hj
  rw [Option.map_eq_some_iff] at h
  exact h

/-- `StreamHolds` from a check that can be computed. -/
theorem streamHolds_of_check {s : State} {bits : List Bool}
    (h : ∀ p < bits.length, (Memory.read s.bitbuf (p / 8)).map (fun v => v.getLsbD (7 - p % 8)) = some (bits.getD p false)) :
    StreamHolds s bits := by
  intro p hp
  have h := h p hp
  rw [Option.map_eq_some_iff] at h
  exact h

/-- The codes of ABRACADABRA (42_table_compiler.md R119). -/
def abraCode (x : Sym) : List Bool :=
  if x = 0x41 then [false]
  else if x = 0x42 then [true, true, false]
  else if x = 0x43 then [true, false, false]
  else if x = 0x44 then [true, false, true]
  else [true, true, true]

theorem loaded_hasCode : List.Forall₂ (HasCode loaded) abra (abra.map abraCode) := by
  rw [List.forall₂_map_right_iff, List.forall₂_same]
  intro x hx
  have h : ∀ x ∈ abra, ((loaded.lutHeader x.toNat).v = true ∧ 1 ≤ (loaded.lutHeader x.toNat).len.toNat ∧
      (loaded.lutHeader x.toNat).len.toNat ≤ loaded.cfg.maxLen) ∧ (loaded.lutHeader x.toNat).len.toNat = (abraCode x).length ∧
      ∀ j < (abraCode x).length, (Memory.read loaded.lutCode (lutCodeIndex x.toNat (j / 32))).map (fun w => w.getLsbD (31 - j % 32)) =
        some ((abraCode x).getD j false) := by decide +kernel
  exact hasCode_of_check (h x hx).1 (h x hx).2.1 (h x hx).2.2

theorem loaded_symbuf : SymbufHolds loaded abra := by
  unfold SymbufHolds
  decide +kernel

/-- A state with the tree of ABRACADABRA and the stream, and this many symbols and bits asked for. -/
def asked (n : BitVec 15) (nbits : BitVec 18) : State := { loaded with decNsym := n, decNbits := nbits }

theorem asked_walkReady : WalkReady (asked 2 4) :=
  ⟨by decide, by decide, by decide, rfl, by decide, _, rfl, rfl⟩

/-- The path "0" to A. -/
theorem asked_path_A (n : BitVec 15) (nbits : BitVec 18) : LeafPath (asked n nbits) 0 [false] 0x41 :=
  ⟨[], false, 0, _, _, rfl, rfl, rfl, (by decide : (1 : Nat) < 511), rfl, rfl, (by decide : (Node.ofWord 0x80000041).sym Config.default = 0x41)⟩

/-- The internal path "11" to node 6. -/
theorem asked_front (n : BitVec 15) (nbits : BitVec 18) : InternalPath (asked n nbits) 0 [true, true] 6 :=
  ⟨_, _, rfl, (by decide : (2 : Nat) < 511), rfl, rfl, _, _, rfl, (by decide : (6 : Nat) < 511), rfl, rfl, rfl⟩

/-- The path "110" to B. -/
theorem asked_path_B (n : BitVec 15) (nbits : BitVec 18) : LeafPath (asked n nbits) 0 [true, true, false] 0x42 :=
  ⟨[true, true], false, 6, _, _, rfl, asked_front n nbits, rfl, (by decide : (7 : Nat) < 511), rfl, rfl,
    (by decide : (Node.ofWord 0x80000042).sym Config.default = 0x42)⟩

/-- The images of ABRACADABRA. -/
def abraSeq : List Nat := [0x41, 0x42, 0x52, 0x41, 0x43, 0x41, 0x44, 0x41, 0x42, 0x52, 0x41]

def abraImages : Images := imagesOf Config.default (buildTree Config.default (countFrequencies abraSeq))

theorem abra_compiles : compile loaded.cfg abraSeq = .ok abraImages := by
  have h : ((generateCodes (buildTree loaded.cfg (countFrequencies abraSeq))).any fun p => loaded.cfg.maxLen < p.2.length) = false := by
    decide +kernel
  unfold compile compileTable
  dsimp only
  rw [h]
  rfl

theorem abra_inAlphabet : InAlphabet loaded.cfg abraSeq := by
  unfold InAlphabet
  decide +kernel

theorem abra_lutLoaded : LutLoaded loaded abraImages := by
  unfold LutLoaded
  decide +kernel

theorem abra_treeLoaded : TreeLoaded loaded abraImages := by
  unfold TreeLoaded
  decide +kernel

/-! ## Encoding and the step -/

theorem witness_DecodeInvertsEncode : (Instr.badCmd 0xFFFFFFFF).wf = true ∧ (Instr.wr 0x7FFFF 0xFFFFFFFF).wf = true ∧ (Instr.rd 0).wf = true := by
  decide

theorem witness_EncodeInvertsDecode : decodeCode (.txn 0x8007FFFFFFFFFFFF) = .ok (.wr 0x7FFFF 0xFFFFFFFF) ∧
    decodeCode (.cmd 0x00000004) = .ok (.badCmd 0x00000004) := by decide

theorem witness_NonTransactionWordIsRefused :
    (∃ s : State, s.schedule = [.txn 0x4000000000000000] ∧ BitVec.extractLsb' 51 12 (0x4000000000000000 : TxnWord) ≠ 0) ∧
    (∃ s : State, s.schedule = [.txn 0x0000001400000001] ∧ BitVec.getLsbD (0x0000001400000001 : TxnWord) 63 = false ∧
      BitVec.extractLsb' 0 32 (0x0000001400000001 : TxnWord) ≠ 0) :=
  ⟨⟨{ loaded with schedule := [.txn 0x4000000000000000] }, rfl, by decide⟩,
    ⟨{ loaded with schedule := [.txn 0x0000001400000001] }, rfl, by decide, by decide⟩⟩

theorem witness_StepRunsScheduledTransaction :
    ∃ s : State, s.schedule = [.txn 0x0000001400000000] ∧ decodeCode (.txn 0x0000001400000000) = .ok (.rd 0x00014) :=
  ⟨{ loaded with schedule := [.txn 0x0000001400000000] }, rfl, by decide⟩

theorem witness_StepRunsPendingCommand :
    decodeCode (.cmd 0x00000001) = .ok .encode ∧
    (∃ s : State, s.pending = some 0x00000001 ∧ s.schedule = [.engine, .reset]) ∧
    (∃ s : State, s.pending = some 0x00000001 ∧ s.schedule = []) :=
  ⟨by decide, ⟨{ loaded with pending := some 1, schedule := [.engine, .reset] }, rfl, rfl⟩, ⟨{ loaded with pending := some 1 }, rfl, rfl⟩⟩

theorem witness_IdleBlockKeepsItsState :
    (∃ s : State, s.pending = none ∧ s.schedule = [.engine]) ∧ (∃ s : State, s.pending = none ∧ s.schedule = []) :=
  ⟨⟨{ loaded with schedule := [.engine] }, rfl, rfl⟩, ⟨loaded, rfl, rfl⟩⟩

theorem witness_PlacedCommandWordRunsNext : decodeTableWord 32 0xFFFFFFFF = some (.badCmd 0xFFFFFFFF) := by decide

theorem witness_PlacedTransactionWordRunsNext : decodeTableWord 64 0x8007FFFFFFFFFFFF = some (.wr 0x7FFFF 0xFFFFFFFF) := by decide

theorem witness_ResetStepResets : ∃ s : State, s.schedule = [.reset, .engine] ∧ s.pending = some 1 :=
  ⟨{ loaded with schedule := [.reset, .engine], pending := some 1 }, rfl, rfl⟩

theorem witness_ResetStateReadsAsStated : ∃ s : State, s.schedule = [.reset] ∧ s.lutHdr ≠ [] :=
  ⟨{ loaded with schedule := [.reset] }, rfl, by decide⟩

/-! ## The invariant -/

/-- Not the reset state: tables loaded, a command pending. -/
theorem witness_StepKeepsTheInvariant : ∃ s t : State, s.wf ∧ s.pending = some 1 ∧ s.lutHdr ≠ [] ∧ step s = .next t := by
  refine ⟨{ loaded with pending := some 1 }, _, ⟨by decide, ?_, ?_, ?_, ?_⟩, rfl, by decide, rfl⟩
  · unfold State.lutWf
    decide +kernel
  · unfold State.bufWf
    decide +kernel
  · exact fun _ => ⟨rfl, rfl, rfl, rfl⟩
  · intro _
    unfold State.recordWf State.resultWf
    decide

/-- A step that keeps the fault, and a reset step. -/
theorem witness_ModelFaultIsSticky :
    (∃ s t : State, s.modelFault = some (.uninitRead (.rom 0)) ∧ step s = .next t ∧ t.pending = none) ∧
    (∃ s t : State, s.modelFault = some (.uninitRead (.rom 0)) ∧ s.schedule = [.reset] ∧ step s = .next t) :=
  ⟨⟨{ loaded with modelFault := some (.uninitRead (.rom 0)), pending := some 0 }, _, rfl, rfl, rfl⟩,
    ⟨{ loaded with modelFault := some (.uninitRead (.rom 0)), schedule := [.reset] }, _, rfl, rfl, rfl⟩⟩

/-! ## RD and WR -/

/-- The last cell of each window. -/
theorem last_cells : CellAt Config.default 0x13FC0 (.lutHeader 255) ∧ CellAt Config.default 0x13FE0 (.lutWord 255 7) ∧
    CellAt Config.default 0x207F8 (.rom 510) ∧ CellAt Config.default 0x33FFC (.symbuf 4095) ∧ CellAt Config.default 0x43FFC (.bitbuf 4095) := by
  unfold CellAt
  decide +kernel

/-- A state with a value in the last cell of each window. -/
def lastCells : State :=
  { State.reset with
    lutHdr := [(255, ⟨true, 255⟩)], lutCode := [(lutCodeIndex 255 7, 0xFFFFFFFF)], rom := [(510, ⟨false, 0, 0x1FF⟩)]
    symbuf := [(4095, 0xFF)], bitbuf := [(4095, 0x80)] }

theorem witness_RdReturnsTheCell : lastCells.cfg.wf ∧ lastCells.pending = none ∧
    cellWord lastCells (.lutHeader 255) = some 0x800000FF ∧ cellWord lastCells (.lutWord 255 7) = some 0xFFFFFFFF ∧
    cellWord lastCells (.rom 510) = some 0x01FF0000 ∧ cellWord lastCells (.symbuf 4095) = some 0x000000FF ∧
    cellWord lastCells (.bitbuf 4095) = some 0x00000080 := by decide +kernel

theorem witness_RdOfAnUnwrittenCellFaults : State.reset.cfg.wf ∧ State.reset.pending = none ∧
    cellWord State.reset (.lutWord 255 7) = none ∧ cellWord State.reset (.rom 510) = none ∧
    cellWord State.reset (.symbuf 4095) = none ∧ cellWord State.reset (.bitbuf 4095) = none := by decide

/-- Misaligned, unmapped in each range, and refused while busy. -/
theorem witness_BadRead : BadRead loaded 0x00011 ∧ BadRead loaded 0x00044 ∧ BadRead loaded 0x00100 ∧ BadRead loaded 0x10024 ∧
    BadRead loaded 0x14000 ∧ BadRead loaded 0x207FC ∧ BadRead loaded 0x34000 ∧ BadRead loaded 0x44000 ∧ BadRead loaded 0x7FFFC ∧
    BadRead { loaded with pending := some 0 } 0x43FFC := by
  refine ⟨?_, ?_, ?_, ?_, ?_, ?_, ?_, ?_, ?_, ?_⟩ <;> (unfold BadRead Unmapped InWindow; decide +kernel)

/-- As for reads, and a read-only register, and an RW register while busy. -/
theorem witness_BadWrite : BadWrite loaded 0x00013 ∧ BadWrite loaded 0x0000C ∧ BadWrite loaded 0x00038 ∧ BadWrite loaded 0x0FFFC ∧
    BadWrite { loaded with pending := some 0 } 0x00040 ∧ BadWrite { loaded with pending := some 0 } 0x10000 := by
  refine ⟨?_, ?_, ?_, ?_, ?_, ?_⟩ <;> (unfold BadWrite Unmapped InWindow; decide +kernel)

theorem witness_BusErrorsOnlySetBuserr : loaded.cfg.wf ∧ BadRead loaded (0x00011 : Addr).toNat ∧ BadWrite loaded (0x00011 : Addr).toNat := by
  refine ⟨loaded_cfg_wf, .inl ?_, .inl ?_⟩ <;> decide

theorem witness_RdChangesNoState : (∃ t, exec (.rd 0x7FFFF) loaded = .next t) ∧ (∃ t, exec (.rd 0x20000) State.reset = .next t) :=
  ⟨⟨_, rfl⟩, ⟨_, rfl⟩⟩

theorem witness_WrStoresTheRwRegister : loaded.pending = none := rfl

theorem witness_WrCmdIsAccepted : loaded.pending = none := rfl

theorem witness_WrCmdWhileBusyIsLost : { loaded with pending := some 0xFFFFFFFF }.pending = some 0xFFFFFFFF := rfl

theorem witness_WrStoresOneCell : loaded.cfg.wf ∧ loaded.lutWf ∧ loaded.pending = none ∧ CellAt loaded.cfg (0x207F8 : Addr).toNat (.rom 510) ∧
    CellAt loaded.cfg (0x207F4 : Addr).toNat (.rom 509) ∧ (0x207F4 : Addr).toNat ≠ (0x207F8 : Addr).toNat :=
  ⟨loaded_cfg_wf, loaded_lutWf, rfl, by unfold CellAt; decide, by unfold CellAt; decide, by decide⟩

theorem witness_RdAfterWrReadsTheStoredFields :
    loaded.cfg.wf ∧ loaded.lutWf ∧ loaded.pending = none ∧ CellAt loaded.cfg (0x13FC0 : Addr).toNat (.lutHeader 255) :=
  ⟨loaded_cfg_wf, loaded_lutWf, rfl, by unfold CellAt; decide⟩

/-- A write of ROM[0], and a CMD write, with other locations that hold values. -/
theorem witness_WrChangesOneLocation : loaded.cfg.wf ∧ loaded.lutWf ∧
    (∃ t, exec (.wr 0x20000 0) loaded = .next t) ∧ mapped loaded.cfg 0x20004 = some (.rom 1) ∧
    (∃ t, exec (.wr 0x00010 1) loaded = .next t) ∧ mapped loaded.cfg 0x00018 = some (.reg .errInfo) ∧
    mapped loaded.cfg 0x00020 = some (.reg .encNsym) :=
  ⟨loaded_cfg_wf, loaded_lutWf, ⟨_, rfl⟩, by decide +kernel, ⟨_, rfl⟩, by decide +kernel, by decide +kernel⟩

theorem witness_BusyTransactionsChangeNoOperand :
    ∃ s t u : State, s.pending = some 1 ∧ exec (.rd 0x40000) s = .next t ∧ exec (.wr 0x00010 2) s = .next u :=
  ⟨{ loaded with pending := some 1 }, _, _, rfl, rfl, rfl⟩

/-! ## The engine and the bitpacker -/

theorem witness_ClearLutClearsEveryValidBit : loaded.lutWf ∧ (loaded.lutHeader 0x41).v = true := ⟨loaded_lutWf, by decide⟩

theorem witness_PendingCommandIsFinished : ∃ s : State, s.pending = some 1 ∧
    s.schedule = [.txn 0x0000001400000000, .txn 0x8000001000000002] ∧
    ∀ e ∈ s.schedule, ∃ v i, e = .txn v ∧ decodeTxn v = .ok i := by
  refine ⟨{ loaded with pending := some 1, schedule := [.txn 0x0000001400000000, .txn 0x8000001000000002] }, rfl, rfl, fun e he => ?_⟩
  rcases List.mem_cons.1 he with rfl | he
  · exact ⟨_, .rd 0x00014, rfl, by decide⟩
  · rw [List.mem_singleton.1 he]
    exact ⟨_, .wr 0x00010 2, rfl, by decide⟩

theorem witness_FailedCommandShowsItsCauseCode : loaded.ovr = false ∧ loaded.busErr = false := ⟨rfl, rfl⟩

theorem witness_PackingPutsBitsMsbFirst : ∃ p : Packer, p = ([[true], [false, true]].foldl Packer.packCode packBegin).flush ∧ 0 < p.out.length :=
  ⟨_, rfl, by decide +kernel⟩

/-- The last bit below the limit, and the limit. -/
theorem witness_UnpackingReturnsTheStreamBits : (22 < 23 ∧ BitAt loaded.bitbuf 22 false) ∧ 23 ≤ 23 :=
  ⟨⟨by decide, _, rfl, by decide⟩, by decide⟩

/-! ## ENCODE -/

theorem witness_EncodePacksTheCodes : loaded.encNsym.toNat = abra.length ∧ abra.length ≤ loaded.cfg.symCap ∧ SymbufHolds loaded abra ∧
    List.Forall₂ (HasCode loaded) abra (abra.map abraCode) ∧ (abra.map abraCode).flatten.length ≤ 8 * loaded.cfg.byteCap :=
  ⟨by decide, by decide, loaded_symbuf, loaded_hasCode, by decide +kernel⟩

/-- 4097 symbols asked for; no code for the second of two symbols; a bad code for it; and one code too long for a buffer of one byte. -/
theorem witness_EncodeChecksInOrder :
    (∃ s : State, s.cfg.symCap < s.encNsym.toNat) ∧
    (∃ s : State, s.encNsym.toNat ≤ s.cfg.symCap ∧ [0x41].length < s.encNsym.toNat ∧ SymbufHolds s ([0x41] ++ [0x5A]) ∧
      (∀ y ∈ [0x41], Usable s y) ∧ (s.lutHeader 0x5A).v = false) ∧
    (∃ s : State, s.encNsym.toNat ≤ s.cfg.symCap ∧ [0x41].length < s.encNsym.toNat ∧ SymbufHolds s ([0x41] ++ [0x42]) ∧
      (∀ y ∈ [0x41], Usable s y) ∧ (s.lutHeader 0x42).v = true ∧ (s.lutHeader 0x42).len = 0) ∧
    (∃ s : State, s.encNsym.toNat ≤ s.cfg.symCap ∧ [0x41].length < s.encNsym.toNat ∧ SymbufHolds s ([0x41] ++ [0x42]) ∧
      (∀ y ∈ [0x41], Usable s y) ∧ (s.lutHeader 0x42).v = true ∧ s.cfg.maxLen < (s.lutHeader 0x42).len.toNat) ∧
    (∃ s : State, s.encNsym.toNat ≤ s.cfg.symCap ∧ [0x41].length = s.encNsym.toNat ∧ SymbufHolds s [0x41] ∧ (∀ y ∈ [0x41], Usable s y) ∧
      8 * s.cfg.byteCap < ([0x41].map fun y : Sym => (s.lutHeader y.toNat).len.toNat).sum) := by
  unfold SymbufHolds Usable
  exact ⟨⟨{ loaded with encNsym := 4097 }, by decide⟩,
    ⟨{ loaded with symbuf := cells [0x41, 0x5A], encNsym := 2 }, by decide +kernel⟩,
    ⟨{ loaded with symbuf := cells [0x41, 0x42], encNsym := 2, lutHdr := [(0x41, ⟨true, 1⟩), (0x42, ⟨true, 0⟩)] }, by decide +kernel⟩,
    ⟨{ loaded with cfg := { Config.default with maxLen := 2 }, symbuf := cells [0x41, 0x42], encNsym := 2 }, by decide +kernel⟩,
    ⟨{ loaded with cfg := { Config.default with byteCap := 1 }, symbuf := cells [0x41], encNsym := 1, lutHdr := [(0x41, ⟨true, 9⟩)] },
      by decide +kernel⟩⟩

theorem witness_EncodeOfNothingSucceeds : { loaded with encNsym := 0 }.encNsym = 0 := rfl

/-- An ENCODE that fails with NO_CODE. -/
theorem witness_FailedEncodeWritesNoOutput :
    ∃ s t : State, s.bitbuf ≠ [] ∧ exec .encode s = .next t ∧ t.modelFault = none ∧ t.fail = true :=
  ⟨{ loaded with symbuf := cells [0x5A], encNsym := 1 }, _, by decide, rfl, by decide +kernel, by decide +kernel⟩

theorem witness_EncodeReadsItsInputsOnly :
    loaded.cfg.wf ∧ ∃ t, exec .encode loaded = .next t ∧ t.modelFault = none ∧ t.encBytelen.toNat ≤ 3 :=
  ⟨loaded_cfg_wf, _, rfl, by decide +kernel, by decide +kernel⟩

/-- Two states that differ in BITBUF and in a symbol that is not read. -/
theorem witness_EncodeDependsOnItsInputsOnly : ∃ s s' t t' : State, s.symbuf ≠ s'.symbuf ∧ s.bitbuf ≠ s'.bitbuf ∧ s.cfg = s'.cfg ∧
    s.encNsym = s'.encNsym ∧ (∀ i, i < s.encNsym.toNat → Memory.read s.symbuf i = Memory.read s'.symbuf i) ∧
    (∀ sym, s.lutHeader sym = s'.lutHeader sym) ∧ (∀ k, Memory.read s.lutCode k = Memory.read s'.lutCode k) ∧
    exec .encode s = .next t ∧ exec .encode s' = .next t' ∧ s.modelFault = none ∧ s'.modelFault = none ∧ t.modelFault = none :=
  ⟨{ loaded with encNsym := 4 }, { loaded with encNsym := 4, symbuf := cells [0x41, 0x42, 0x52, 0x41], bitbuf := [] }, _, _,
    by decide, by decide, rfl, rfl, by decide +kernel, fun _ => rfl, fun _ => rfl, rfl, rfl, rfl, rfl, by decide +kernel⟩

/-- The second symbol unwritten; and the second symbol's code word unwritten. -/
theorem witness_EncodeFaultsAtTheFirstUnwrittenCell :
    (∃ s : State, s.encNsym.toNat ≤ s.cfg.symCap ∧ s.modelFault = none ∧ [0x41].length < s.encNsym.toNat ∧ SymbufHolds s [0x41] ∧
      (∀ y ∈ [0x41], Usable s y) ∧ Memory.read s.symbuf [0x41].length = none) ∧
    (∃ s : State, s.encNsym.toNat ≤ s.cfg.symCap ∧ s.modelFault = none ∧ ([0x41] ++ 0x42 :: []).length = s.encNsym.toNat ∧
      SymbufHolds s ([0x41] ++ 0x42 :: []) ∧ (∀ y ∈ [0x41] ++ 0x42 :: [], Usable s y) ∧
      (([0x41] ++ 0x42 :: []).map fun y : Sym => (s.lutHeader y.toNat).len.toNat).sum ≤ 8 * s.cfg.byteCap ∧
      List.Forall₂ (HasCode s) [0x41] [[false]] ∧ 32 * 0 < (s.lutHeader 0x42).len.toNat ∧
      Memory.read s.lutCode (lutCodeIndex 0x42 0) = none) := by
  refine ⟨⟨{ loaded with symbuf := cells [0x41], encNsym := 2 }, ?_⟩,
    ⟨{ loaded with symbuf := cells [0x41, 0x42], encNsym := 2, lutCode := [(lutCodeIndex 0x41 0, 0)] }, by decide, rfl, by decide, ?_, ?_,
      by decide +kernel, ?_, by decide +kernel, by decide +kernel⟩⟩
  · unfold SymbufHolds Usable
    decide +kernel
  · unfold SymbufHolds
    decide +kernel
  · unfold Usable
    decide +kernel
  · exact .cons (hasCode_of_check (by decide +kernel) (by decide +kernel) (by decide +kernel)) .nil

/-! ## DECODE -/

/-- Too many symbols, too many bits, no symbol, and no tree, each at the edge of its range. -/
theorem witness_DecodeChecksItsRegisters :
    (∃ s : State, s.cfg.symCap < s.decNsym.toNat) ∧
    (∃ s : State, s.decNsym.toNat ≤ s.cfg.symCap ∧ 8 * s.cfg.byteCap < s.decNbits.toNat) ∧
    (∃ s : State, s.decNsym.toNat = 0 ∧ s.decNbits.toNat ≤ 8 * s.cfg.byteCap) ∧
    (∃ s : State, 1 ≤ s.decNsym.toNat ∧ s.decNsym.toNat ≤ s.cfg.symCap ∧ s.decNbits.toNat ≤ 8 * s.cfg.byteCap ∧ s.treeValid = false) :=
  ⟨⟨asked 4097 0, by decide⟩, ⟨asked 4096 32769, by decide⟩, ⟨asked 0 32768, by decide⟩,
    ⟨{ asked 4096 32768 with treeValid := false }, by decide⟩⟩

theorem witness_DecodeOfADegenerateTree : ∃ (s : State) (root : Node), 1 ≤ s.decNsym.toNat ∧ s.decNsym.toNat ≤ s.cfg.symCap ∧
    s.decNbits.toNat ≤ 8 * s.cfg.byteCap ∧ s.treeValid = true ∧ s.treeRoot.toNat < s.cfg.nodes ∧
    Memory.read s.rom s.treeRoot.toNat = some root ∧ root.leaf = true :=
  ⟨{ asked 3 0 with rom := [(0, Node.ofWord 0x80000007)] }, _, by decide, by decide, by decide, rfl, by decide, rfl, rfl⟩

/-- The stream begins with the paths of A and B. -/
theorem witness_DecodeWalksTheTree : WalkReady (asked 2 4) ∧ [0x41, 0x42].length = (asked 2 4).decNsym.toNat ∧
    List.Forall₂ (LeafPath (asked 2 4) (asked 2 4).treeRoot) [[false], [true, true, false]] [0x41, 0x42] ∧
    [[false], [true, true, false]].flatten.length ≤ (asked 2 4).decNbits.toNat ∧
    StreamHolds (asked 2 4) [[false], [true, true, false]].flatten :=
  ⟨asked_walkReady, by decide, .cons (asked_path_A 2 4) (.cons (asked_path_B 2 4) .nil), by decide,
    streamHolds_of_check (by decide +kernel)⟩

theorem asked_walkReady_3 : WalkReady (asked 2 3) :=
  ⟨by decide, by decide, by decide, rfl, by decide, _, rfl, rfl⟩

/-- The bits end inside the path of the second symbol. -/
theorem witness_DecodeFailsWhenBitsRunOut : WalkReady (asked 2 3) ∧ [0x41].length < (asked 2 3).decNsym.toNat ∧
    List.Forall₂ (LeafPath (asked 2 3) (asked 2 3).treeRoot) [[false]] [0x41] ∧
    InternalPath (asked 2 3) (asked 2 3).treeRoot [true, true] 6 ∧
    ([[false]].flatten ++ [true, true]).length = (asked 2 3).decNbits.toNat ∧ StreamHolds (asked 2 3) ([[false]].flatten ++ [true, true]) :=
  ⟨asked_walkReady_3, by decide, .cons (asked_path_A 2 3) .nil, asked_front 2 3, by decide, streamHolds_of_check (by decide +kernel)⟩

/-- A root index of 511; and a root whose zero-branch is 511 (95_test_vectors.md T5.11, T5.12). -/
theorem witness_DecodeFailsOnAnIndexOutOfRange :
    (∃ s : State, 1 ≤ s.decNsym.toNat ∧ s.decNsym.toNat ≤ s.cfg.symCap ∧ s.decNbits.toNat ≤ 8 * s.cfg.byteCap ∧ s.treeValid = true ∧
      s.cfg.nodes ≤ s.treeRoot.toNat) ∧
    (∃ (s : State) (node : Node), WalkReady s ∧ ([] : List Sym).length < s.decNsym.toNat ∧
      List.Forall₂ (LeafPath s s.treeRoot) [] [] ∧ InternalPath s s.treeRoot [] 0 ∧
      (([] : List (List Bool)).flatten ++ []).length < s.decNbits.toNat ∧
      StreamHolds s (([] : List (List Bool)).flatten ++ [] ++ [false]) ∧
      Memory.read s.rom (0 : NodeIx).toNat = some node ∧ s.cfg.nodes ≤ (node.child false).toNat) :=
  ⟨⟨{ asked 11 23 with treeRoot := 511 }, by decide⟩,
    ⟨{ asked 11 23 with rom := [(0, Node.ofWord 0x000101FF)] }, Node.ofWord 0x000101FF,
      ⟨by decide, by decide, by decide, rfl, by decide, _, rfl, rfl⟩, by decide, .nil, rfl, by decide,
      streamHolds_of_check (by decide +kernel), rfl, by decide⟩⟩

/-- A DECODE that is exhausted, and one that succeeds. -/
theorem witness_DecodeWritesOutputOnSuccessOnly :
    (∃ t : State, exec .decode (asked 2 3) = .next t ∧ t.modelFault = none ∧ t.fail = true) ∧
    (∃ t : State, exec .decode (asked 2 4) = .next t ∧ t.modelFault = none ∧ t.fail = false) :=
  ⟨⟨_, rfl, by decide +kernel, by decide +kernel⟩, ⟨_, rfl, by decide +kernel, by decide +kernel⟩⟩

theorem witness_DecodeReadsItsInputsOnly : ∃ t : State, exec .decode loaded = .next t := ⟨_, rfl⟩

/-- Another stream with the same four bits. -/
theorem witness_DecodeReadsNoBitPastTheLimit : ∃ (t : State) (m : Memory Byte), m ≠ (asked 2 4).bitbuf ∧
    (∀ p, p < (asked 2 4).decNbits.toNat →
      (Memory.read (asked 2 4).bitbuf (p / 8)).map (fun v => v.getLsbD (7 - p % 8)) = (Memory.read m (p / 8)).map (fun v => v.getLsbD (7 - p % 8))) ∧
    exec .decode (asked 2 4) = .next t :=
  ⟨_, [(0, 0x60)], by decide, by decide +kernel, rfl⟩

/-- The root unwritten; the first stream byte unwritten; and a child of the root unwritten. -/
theorem witness_DecodeFaultsAtTheFirstUnwrittenCell :
    (∃ s : State, s.modelFault = none ∧ 1 ≤ s.decNsym.toNat ∧ s.decNsym.toNat ≤ s.cfg.symCap ∧ s.decNbits.toNat ≤ 8 * s.cfg.byteCap ∧
      s.treeValid = true ∧ s.treeRoot.toNat < s.cfg.nodes ∧ Memory.read s.rom s.treeRoot.toNat = none) ∧
    (∃ s : State, s.modelFault = none ∧ WalkReady s ∧ ([] : List Sym).length < s.decNsym.toNat ∧
      List.Forall₂ (LeafPath s s.treeRoot) [] [] ∧ InternalPath s s.treeRoot [] 0 ∧
      (([] : List (List Bool)).flatten ++ []).length < s.decNbits.toNat ∧ StreamHolds s (([] : List (List Bool)).flatten ++ []) ∧
      Memory.read s.bitbuf ((([] : List (List Bool)).flatten ++ []).length / 8) = none) ∧
    (∃ (s : State) (node : Node), s.modelFault = none ∧ WalkReady s ∧ ([] : List Sym).length < s.decNsym.toNat ∧
      List.Forall₂ (LeafPath s s.treeRoot) [] [] ∧ InternalPath s s.treeRoot [] 0 ∧
      (([] : List (List Bool)).flatten ++ []).length < s.decNbits.toNat ∧ StreamHolds s (([] : List (List Bool)).flatten ++ []) ∧
      BitAt s.bitbuf (([] : List (List Bool)).flatten ++ []).length false ∧ Memory.read s.rom (0 : NodeIx).toNat = some node ∧
      (node.child false).toNat < s.cfg.nodes ∧ Memory.read s.rom (node.child false).toNat = none) :=
  ⟨⟨{ asked 1 0 with rom := [(0, Node.ofWord 0x80000041)], treeRoot := 510 }, rfl, by decide, by decide, by decide, rfl, by decide, rfl⟩,
    ⟨{ asked 2 4 with bitbuf := [] }, rfl, ⟨by decide, by decide, by decide, rfl, by decide, _, rfl, rfl⟩, by decide, .nil, rfl, by decide,
      streamHolds_of_check (by decide), rfl⟩,
    ⟨{ asked 2 4 with rom := [(0, Node.ofWord 0x00020001)] }, Node.ofWord 0x00020001, rfl,
      ⟨by decide, by decide, by decide, rfl, by decide, _, rfl, rfl⟩, by decide, .nil, rfl, by decide, streamHolds_of_check (by decide),
      ⟨_, rfl, by decide⟩, rfl, by decide, rfl⟩⟩

/-! ## The table compiler -/

theorem witness_CompileOfDegenerateSequences : Config.default.wf ∧ 255 < Config.default.alphabet ∧ 1 ≤ 1 := by decide +kernel

theorem witness_CompileRejectsMalformedTables :
    (∃ p ∈ [((0x41 : Int), (2 : Int)), (0x42, 0)], p.2 ≤ 0) ∧
    ((∀ p ∈ [((0x100 : Int), (1 : Int))], 0 < p.2) ∧ ∃ p ∈ [((0x100 : Int), (1 : Int))], p.1 < 0 ∨ (Config.default.alphabet : Int) ≤ p.1) ∧
    ((∀ p ∈ [((-1 : Int), (1 : Int))], 0 < p.2) ∧ ∃ p ∈ [((-1 : Int), (1 : Int))], p.1 < 0 ∨ (Config.default.alphabet : Int) ≤ p.1) ∧
    (∀ x ∈ abraSeq, x < Config.default.alphabet) := by decide +kernel

theorem witness_CompiledCodesCoverTheSequence :
    loaded.cfg.wf ∧ abraSeq ≠ [] ∧ InAlphabet loaded.cfg abraSeq ∧ loaded.cfg.alphabet - 1 ≤ loaded.cfg.maxLen :=
  ⟨loaded_cfg_wf, by decide, abra_inAlphabet, by decide +kernel⟩

theorem witness_CompiledCodesArePrefixFree : InAlphabet Config.default abraSeq ∧
    ∃ p ∈ compiledCodes Config.default abraSeq, ∃ q ∈ compiledCodes Config.default abraSeq, p.1 ≠ q.1 :=
  ⟨abra_inAlphabet, by decide +kernel⟩

theorem witness_CompiledLutGivesTheCodes :
    loaded.cfg.wf ∧ InAlphabet loaded.cfg abraSeq ∧ compile loaded.cfg abraSeq = .ok abraImages ∧ LutLoaded loaded abraImages ∧
    (255 < loaded.cfg.alphabet ∧ 255 ∉ abraSeq) :=
  ⟨loaded_cfg_wf, abra_inAlphabet, abra_compiles, abra_lutLoaded, by decide +kernel⟩

theorem witness_CompiledRomFollowsTheCodes :
    loaded.cfg.wf ∧ InAlphabet loaded.cfg abraSeq ∧ (∃ x ∈ abraSeq, ∃ y ∈ abraSeq, x ≠ y) ∧ compile loaded.cfg abraSeq = .ok abraImages ∧
    TreeLoaded loaded abraImages :=
  ⟨loaded_cfg_wf, abra_inAlphabet, by decide, abra_compiles, abra_treeLoaded⟩

theorem abra_symbuf : SymbufHolds loaded (abraSeq.map (BitVec.ofNat 8)) := by
  unfold SymbufHolds
  decide +kernel

theorem witness_EncodeWithCompiledTableSucceeds :
    loaded.cfg.wf ∧ InAlphabet loaded.cfg abraSeq ∧ compile loaded.cfg abraSeq = .ok abraImages ∧ LutLoaded loaded abraImages ∧
    SymbufHolds loaded (abraSeq.map (BitVec.ofNat 8)) ∧ loaded.encNsym.toNat = abraSeq.length ∧ abraSeq.length ≤ loaded.cfg.symCap ∧
    abraSeq.length * loaded.cfg.symW ≤ 8 * loaded.cfg.byteCap :=
  ⟨loaded_cfg_wf, abra_inAlphabet, abra_compiles, abra_lutLoaded, abra_symbuf, by decide, by decide, by decide⟩

theorem witness_DecodeInvertsEncodeOnCompiledTables :
    loaded.cfg.wf ∧ abraSeq ≠ [] ∧ InAlphabet loaded.cfg abraSeq ∧ compile loaded.cfg abraSeq = .ok abraImages ∧
    LutLoaded loaded abraImages ∧ TreeLoaded loaded abraImages ∧ SymbufHolds loaded (abraSeq.map (BitVec.ofNat 8)) ∧
    loaded.encNsym.toNat = abraSeq.length ∧ loaded.decNsym.toNat = abraSeq.length ∧ abraSeq.length ≤ loaded.cfg.symCap ∧
    codedLength loaded.cfg abraSeq ≤ 8 * loaded.cfg.byteCap ∧ (∃ x ∈ abraSeq, ∃ y ∈ abraSeq, x ≠ y) :=
  ⟨loaded_cfg_wf, by decide, abra_inAlphabet, abra_compiles, abra_lutLoaded, abra_treeLoaded, abra_symbuf, by decide, by decide, by decide,
    by decide +kernel, by decide⟩

/-- The LUT after CLEAR_LUT and then the headers with V = 1 only: 0x5A keeps an older LEN, and the image counts as loaded. -/
theorem witness_LutLoaded_after_clear :
    LutLoaded { loaded with lutHdr := Memory.write loaded.lutHdr 0x5A ⟨false, 7⟩ } abraImages ∧
    ({ loaded with lutHdr := Memory.write loaded.lutHdr 0x5A ⟨false, 7⟩ } : State).lutHeader 0x5A ≠ LutHeader.ofWord 0 := by
  unfold LutLoaded
  decide +kernel

/-- A state loaded for the sequence 07 07 07 (95_test_vectors.md, program P3). -/
def loadedSingle : State :=
  { State.reset with
    lutHdr := [(0x07, ⟨true, 1⟩)], lutCode := [(lutCodeIndex 0x07 0, 0)], rom := [(0, Node.ofWord 0x80000007)]
    symbuf := cells [0x07, 0x07, 0x07], treeValid := true, encNsym := 3, decNsym := 3 }

def singleImages : Images := imagesOf Config.default (buildTree Config.default (countFrequencies [7, 7, 7]))

theorem single_compiles : compile loadedSingle.cfg [7, 7, 7] = .ok singleImages := by
  have h : ((generateCodes (buildTree loadedSingle.cfg (countFrequencies [7, 7, 7]))).any fun p => loadedSingle.cfg.maxLen < p.2.length) =
      false := by decide +kernel
  unfold compile compileTable
  dsimp only
  rw [h]
  rfl

theorem single_loaded : LutLoaded loadedSingle singleImages ∧ TreeLoaded loadedSingle singleImages := by
  unfold LutLoaded TreeLoaded
  decide +kernel

/-- The clause of one distinct symbol. -/
theorem witness_DecodeInvertsEncodeOnCompiledTables_single :
    loadedSingle.cfg.wf ∧ [7, 7, 7] ≠ ([] : List Nat) ∧ InAlphabet loadedSingle.cfg [7, 7, 7] ∧
    compile loadedSingle.cfg [7, 7, 7] = .ok singleImages ∧ LutLoaded loadedSingle singleImages ∧ TreeLoaded loadedSingle singleImages ∧
    SymbufHolds loadedSingle ([7, 7, 7].map (BitVec.ofNat 8)) ∧ loadedSingle.encNsym.toNat = [7, 7, 7].length ∧
    loadedSingle.decNsym.toNat = [7, 7, 7].length ∧ [7, 7, 7].length ≤ loadedSingle.cfg.symCap ∧
    codedLength loadedSingle.cfg [7, 7, 7] ≤ 8 * loadedSingle.cfg.byteCap ∧ (∀ x ∈ [7, 7, 7], ∀ y ∈ [7, 7, 7], x = (y : Nat)) := by
  refine ⟨by decide, by decide, ?_, single_compiles, single_loaded.1, single_loaded.2, ?_, by decide, by decide, by decide,
    by decide +kernel, by decide⟩
  · unfold InAlphabet
    decide +kernel
  · unfold SymbufHolds
    decide +kernel

end Sys2Proof.Tests
end

section
/-! SUPPORT. What a step leaves of the registers and the model fault: the reset step (10_state.md R45) and the model fault that stays
until it (R43). -/

namespace Sys2Proof.Machine

/-- A step that answers takes an entry off the schedule and does nothing else, or runs an instruction then, or resets then. With nothing
scheduled there is no entry to take. -/
theorem step_next_cases {s t : State} (h : step s = .next t) :
    ∃ rest, t = { s with schedule := rest } ∨ (∃ i, exec i { s with schedule := rest } = .next t) ∨
      (s.schedule = .reset :: rest ∧ t = { s with schedule := rest }.applyReset) := by
  rcases step_cases s with ⟨-, -, he⟩ | ⟨w, -, -, he⟩ | ⟨rest, -, -, he⟩ | ⟨rest, w, -, -, he⟩ | ⟨rest, w, i, -, -, he⟩ |
    ⟨rest, w, e, -, -, he⟩ | ⟨rest, hs, he⟩ <;> rw [he] at h
  · cases h; exact ⟨_, .inl rfl⟩
  · exact ⟨s.schedule, .inr (.inl ⟨_, h⟩)⟩
  · cases h; exact ⟨rest, .inl rfl⟩
  · exact ⟨rest, .inr (.inl ⟨_, h⟩)⟩
  · exact ⟨rest, .inr (.inl ⟨i, h⟩)⟩
  · cases h
  · cases h; exact ⟨rest, .inr (.inr ⟨hs, rfl⟩)⟩

section Reset

/-- A step whose turn is the reset's resets, with its entry taken off the schedule (70_reset_and_hazards.md R168). -/
theorem step_of_reset {s : State} {rest : List Event} (h : s.schedule = .reset :: rest) :
    step s = .next { s with schedule := rest }.applyReset := by
  simp [step, State.fetch, h]

/-- STATUS reads 0 after a reset: every flag is cleared and no command is pending. -/
theorem State.applyReset_statusValue (s : State) : s.applyReset.statusValue = 0 := by
  change State.reset.statusValue = 0
  decide

/-- TREE_CFG reads 0 after a reset. -/
theorem State.applyReset_treeCfg (s : State) : s.applyReset.regValue .treeCfg = 0 := by
  change State.reset.regValue .treeCfg = 0
  decide

/-- Settles O11: every other register is one field of the reset state, and every memory of it is empty. -/
theorem resetStateReadsAsStated : Obligations.ResetStateReadsAsStated := by
  intro s rest h
  exact ⟨_, step_of_reset h, rfl, rfl, rfl, State.applyReset_statusValue _, rfl, rfl, rfl, rfl, rfl, rfl, rfl,
    State.applyReset_treeCfg _, rfl, rfl, fun _ => rfl, fun _ => rfl, fun _ => rfl, fun _ => rfl, fun _ => rfl⟩

end Reset

section ModelFault

/-- A model fault that is set is the one that stays set (R43, assumption log 8). -/
theorem State.setModelFault_keeps {s : State} {g : Fault} (h : s.modelFault = some g) (f : Fault) :
    (s.setModelFault f).modelFault = some g := by
  simp [h]

/-- Raising a model fault leaves one set. -/
theorem State.not_faultFree_setModelFault (s : State) (f : Fault) : ¬ (s.setModelFault f).faultFree := by
  cases h : s.modelFault <;> simp [State.faultFree, h]

@[simp] theorem State.writeLoc_modelFault (s : State) (d : Word) (l : Loc) : (s.writeLoc d l).modelFault = s.modelFault := by
  cases l with
  | reg r => cases r <;> rfl
  | lutHeader sym => rfl
  | lutWord sym w => rfl
  | rom i => rfl
  | symbuf i => rfl
  | bitbuf i => rfl

/-- No instruction clears or replaces a model fault. -/
theorem exec_keeps_modelFault {i : Instr} {s t : State} {g : Fault} (hg : s.modelFault = some g) (h : exec i s = .next t) :
    t.modelFault = some g := by
  cases i with
  | nop => cases h; exact hg
  | clearLut => cases h; exact hg
  | badCmd w => cases h; exact hg
  | encode =>
    rcases execEncode_cases s with ⟨r, -, he⟩ | ⟨c, info, -, he⟩ | ⟨f, -, he⟩ <;> cases he.symm.trans h
    · exact hg
    · exact hg
    · exact State.setModelFault_keeps hg f
  | decode =>
    rcases execDecode_cases s with ⟨r, -, he⟩ | ⟨c, info, -, he⟩ | ⟨f, -, he⟩ <;> cases he.symm.trans h
    · exact hg
    · exact hg
    · exact State.setModelFault_keeps hg f
  | rd a =>
    rcases execRd_cases a s with ⟨-, he⟩ | ⟨l, v, -, -, he⟩ | ⟨l, f, -, -, he⟩ <;> cases he.symm.trans h
    · exact hg
    · exact hg
    · exact State.setModelFault_keeps hg f
  | wr a d =>
    rcases execWr_cases a d s with ⟨-, he⟩ | ⟨-, -, he⟩ | ⟨-, -, he⟩ | ⟨-, -, -, he⟩ | ⟨l, -, -, -, he⟩ <;> cases he.symm.trans h
    · exact hg
    · exact hg
    · exact hg
    · exact hg
    · exact (State.writeLoc_modelFault s d l).trans hg

/-- Settles O14: a step is an instruction, which keeps the model fault, or a reset, or it leaves the block as it is. -/
theorem modelFaultIsSticky : Obligations.ModelFaultIsSticky := by
  intro s t g hg h
  obtain ⟨rest, rfl | ⟨i, he⟩ | ⟨hreset, -⟩⟩ := step_next_cases h
  · exact .inl hg
  · exact .inl (exec_keeps_modelFault (s := { s with schedule := rest }) hg he)
  · exact .inr ⟨rest, hreset⟩

end ModelFault

end Sys2Proof.Machine
end

section
/-! SUPPORT. DECODE takes from BITBUF its stream bits below DEC_NBITS and nothing else (10_state.md R32, 45_decoder.md R148): each unit of the
decoder answers the same over two contents of BITBUF that agree on those bits. -/

namespace Sys2Proof.Machine

/-- Bit position `p` of the stream in BITBUF, or none where its byte is unwritten (20_memory.md R48). -/
def streamBitAt (m : Memory Byte) (p : Nat) : Option Bool := (Memory.read m (p / 8)).map (streamBit · p)

/-- Two contents of BITBUF have the same bits, unwritten ones included, below position `n`. -/
def SameStreamBelow (n : Nat) (m m' : Memory Byte) : Prop := ∀ p, p < n → streamBitAt m p = streamBitAt m' p

/-- UNPACK_BIT looks at no more of BITBUF than the bit at its position, and at none from the limit up (R127). -/
theorem State.unpackBit_eq (s : State) (u : Unpacker) :
    s.unpackBit u =
      if u.limit ≤ u.rpos then .ok none
      else match streamBitAt s.bitbuf u.rpos with
        | none => .error (.uninitRead (.bitbuf (u.rpos / 8)))
        | some b => .ok (some (b, { u with rpos := u.rpos + 1 })) := by
  unfold streamBitAt
  rcases s.unpackBit_cases u with ⟨hle, hu⟩ | ⟨hlt, hr, hu⟩ | ⟨v, hlt, hr, hu⟩
  · rw [hu, if_pos hle]
  · rw [hu, if_neg (Nat.not_le.2 hlt), hr]; rfl
  · rw [hu, if_neg (Nat.not_le.2 hlt), hr]; rfl

variable {s : State} {m : Memory Byte} {n : Nat}

theorem State.unpackBit_congr {u : Unpacker} (h : SameStreamBelow u.limit s.bitbuf m) :
    { s with bitbuf := m }.unpackBit u = s.unpackBit u := by
  rw [State.unpackBit_eq, State.unpackBit_eq]
  by_cases hle : u.limit ≤ u.rpos
  · rw [if_pos hle, if_pos hle]
  · rw [if_neg hle, if_neg hle, h u.rpos (Nat.not_le.1 hle)]

theorem State.walkStep_congr {root : NodeIx} {w : Walk} (h : SameStreamBelow w.up.limit s.bitbuf m) :
    { s with bitbuf := m }.walkStep root w = s.walkStep root w := by
  unfold State.walkStep
  rw [State.unpackBit_congr h]
  rfl

/-- The walk: every iteration keeps the limit, so each of them sees the same bits. -/
theorem State.walk_congr {root : NodeIx} (bound : Nat) {w : Walk} (h : SameStreamBelow w.up.limit s.bitbuf m) :
    { s with bitbuf := m }.walk root n bound w = s.walk root n bound w := by
  induction bound generalizing w with
  | zero => rfl
  | succ bound ih =>
    by_cases hk : n ≤ w.k
    · rw [State.walk_done _ hk, State.walk_done _ hk]
    · rw [State.walk_succ bound (Nat.not_le.1 hk), State.walk_succ bound (Nat.not_le.1 hk), State.walkStep_congr h]
      cases hw : s.walkStep root w with
      | error e => rfl
      | ok w' =>
        obtain ⟨-, -, -, -, -, -, -, -, hup, -⟩ := State.walkStep_ok hw
        have hlimit : w'.up.limit = w.up.limit := by rw [hup]
        exact ih (by rwa [hlimit])

theorem State.decodeTree_congr {root : NodeIx} {nbits : Nat} (h : SameStreamBelow nbits s.bitbuf m) :
    { s with bitbuf := m }.decodeTree root n nbits = s.decodeTree root n nbits := by
  have hwalk := State.walk_congr (n := n) (root := root) (nbits + 1) (w := walkBegin root nbits) h
  unfold State.decodeTree
  rw [hwalk]
  rfl

theorem State.decodeRun_congr (h : SameStreamBelow s.decNbits.toNat s.bitbuf m) :
    { s with bitbuf := m }.decodeRun = s.decodeRun := by
  have htree := State.decodeTree_congr (n := s.decNsym.toNat) (root := s.treeRoot) h
  unfold State.decodeRun
  dsimp only
  rw [htree]

/-- Settles O51: the run is the same with either content, and each of its three endings leaves BITBUF alone. -/
theorem decodeReadsNoBitPastTheLimit : Obligations.DecodeReadsNoBitPastTheLimit := by
  intro s t m hm h
  have hrun : { s with bitbuf := m }.decodeRun = s.decodeRun := State.decodeRun_congr hm
  change execDecode s = .next t at h
  change execDecode { s with bitbuf := m } = _
  unfold execDecode at h ⊢
  rw [hrun]
  rcases hr : s.decodeRun with (⟨c, info⟩ | f) | r <;> rw [hr] at h <;> cases h <;> rfl

end Sys2Proof.Machine
end

section
/-! SUPPORT. What the host's writes keep: an address leads to a cell inside its memory's bounds (20_memory.md R54 to R59), and storing there
keeps the invariant. -/

namespace Sys2Proof.Machine

/-- A property of every listed entry survives a write whose new entry has it. -/
theorem Memory.forall_mem_write {α : Type} {P : Nat × α → Prop} {m : Memory α} {k : Nat} {v : α} (hm : ∀ p ∈ m, P p) (hk : P (k, v)) :
    ∀ p ∈ Memory.write m k v, P p := by
  intro p hp
  rcases Memory.mem_write hp with rfl | hp
  · exact hk
  · exact hm p hp

/-- A symbol cut to SYM_W bits is one of the alphabet (10_state.md R38). -/
theorem symOf_lt_alphabet (c : Config) (v : Nat) : (c.symOf v).toNat < c.alphabet :=
  calc (c.symOf v).toNat = v % c.alphabet % 2 ^ 8 := BitVec.toNat_ofNat ..
    _ ≤ v % c.alphabet := Nat.mod_le _ _
    _ < c.alphabet := Nat.mod_lt _ (Nat.two_pow_pos c.symW)

/-- The cell exists in this configuration (00_scope.md R5 to R8); a code word also lies inside its entry's 16 words (20_memory.md R55). -/
def Loc.inBounds (c : Config) : Loc → Prop
  | .reg _ => True
  | .lutHeader sym => sym < c.alphabet
  | .lutWord sym w => sym < c.alphabet ∧ w < c.codeWords ∧ w < 15
  | .rom i => i < c.nodes
  | .symbuf i => i < c.symCap
  | .bitbuf i => i < c.byteCap

theorem lutLoc_inBounds {c : Config} {k : Nat} {l : Loc} (h : lutLoc c k = some l) : l.inBounds c := by
  unfold lutLoc at h
  split_ifs at h with hsym hhead hword
  · cases h; exact hsym
  · cases h
    have hrow : k % 16 < 16 := Nat.mod_lt _ (by decide)
    refine ⟨hsym, ?_, ?_⟩ <;> omega

/-- An address that is mapped names a cell that exists. -/
theorem mapped_inBounds {c : Config} {a : Addr} {l : Loc} (h : mapped c a = some l) : l.inBounds c := by
  unfold mapped at h
  dsimp only at h
  split_ifs at h with h0 h1 h2 hrom h3 hsym h4 hbit
  · obtain ⟨r, -, rfl⟩ := Option.map_eq_some_iff.1 h
    trivial
  · exact lutLoc_inBounds h
  · cases h; exact hrom
  · cases h; exact hsym
  · cases h; exact hbit

/-- Storing in a cell that exists keeps the invariant: only that cell's memory changes, by one canonical write. -/
theorem State.writeLoc_wf {s : State} {l : Loc} (h : s.wf) (hl : l.inBounds s.cfg) (d : Word) : (s.writeLoc d l).wf := by
  obtain ⟨hcfg, hlut, hbuf, hregs⟩ := h
  have ⟨hhdr, hzero, hhdrB, hcode, hcodeB⟩ := hlut
  have ⟨hrom, hromB, hsym, hsymB, hbit, hbitB⟩ := hbuf
  cases l with
  | reg r => cases r <;> exact ⟨hcfg, hlut, hbuf, hregs⟩
  | lutHeader sym =>
    refine ⟨hcfg, ⟨Memory.writeHeader_wf hhdr _ _, Memory.writeHeader_noZeroHeader hzero _ _, fun p hp => ?_, hcode, hcodeB⟩, hbuf, hregs⟩
    rcases Memory.mem_writeHeader hp with ⟨rfl, -⟩ | hp
    · exact hl
    · exact hhdrB p hp
  | lutWord sym w =>
    obtain ⟨hsymA, hw, hrow⟩ := hl
    have hindex : lutCodeIndex sym w / 16 = sym ∧ lutCodeIndex sym w % 16 = w := by unfold lutCodeIndex; omega
    refine ⟨hcfg, ⟨hhdr, hzero, hhdrB, Memory.write_wf hcode _ _, Memory.forall_mem_write hcodeB ?_⟩, hbuf, hregs⟩
    rw [hindex.1, hindex.2]
    exact ⟨hsymA, hw⟩
  | rom i => exact ⟨hcfg, hlut, ⟨Memory.write_wf hrom _ _, Memory.forall_mem_write hromB hl, hsym, hsymB, hbit, hbitB⟩, hregs⟩
  | symbuf i =>
    exact ⟨hcfg, hlut, ⟨hrom, hromB, Memory.write_wf hsym _ _,
      Memory.forall_mem_write hsymB ⟨hl, symOf_lt_alphabet s.cfg _⟩, hbit, hbitB⟩, hregs⟩
  | bitbuf i => exact ⟨hcfg, hlut, ⟨hrom, hromB, hsym, hsymB, Memory.write_wf hbit _ _, Memory.forall_mem_write hbitB hl⟩, hregs⟩

end Sys2Proof.Machine
end

section
/-! SUPPORT. Bounds of what a run of ENCODE or DECODE stages: a failure has a cause (60_exceptions.md R153), the encoder's bytes are its bits
rounded up (44_encoder.md R132), and the decoder's symbols and bits fit (45_decoder.md R148). -/

namespace Sys2Proof.Machine

section Causes

/-- A failure names a cause; a model fault names none. -/
def Stop.hasCause : Stop → Prop
  | .raise c _ => c ≠ .none
  | .fault _ => True

@[simp] theorem Stop.hasCause_raise {c : Cause} {info : Word} : (Stop.raise c info).hasCause ↔ c ≠ .none := Iff.rfl

variable {s : State} {x : Stop}

theorem engineRead_error_hasCause {α : Type} {e : Except Fault α} (h : engineRead e = .error x) : x.hasCause := by
  obtain ⟨f, -, rfl⟩ := engineRead_eq_error.1 h
  trivial

theorem State.checkSymbols_error_hasCause {i m total : Nat} (h : s.checkSymbols i m total = .error x) : x.hasCause := by
  induction m generalizing i total with
  | zero => cases h
  | succ m ih =>
    rw [State.checkSymbols] at h
    cases hr : engineRead (s.readSymbuf i) with
    | error e => rw [hr] at h; cases h; exact engineRead_error_hasCause hr
    | ok sym =>
      simp only [hr] at h
      cases hk : (s.lutHeader sym.toNat).kind s.cfg with
      | absent => rw [hk] at h; cases h; simp
      | bad => rw [hk] at h; cases h; simp
      | usable => rw [hk] at h; exact ih h

theorem State.codeBits_error_hasCause {sym j m : Nat} (h : s.codeBits sym j m = .error x) : x.hasCause := by
  induction m generalizing j x with
  | zero => cases h
  | succ m ih =>
    rw [State.codeBits] at h
    cases hr : engineRead (s.readLutCode sym (j / 32)) with
    | error e => rw [hr] at h; cases h; exact engineRead_error_hasCause hr
    | ok w =>
      cases hb : s.codeBits sym (j + 1) m with
      | error e => simp only [hr, hb] at h; cases h; exact ih hb
      | ok bits => simp only [hr, hb] at h; cases h

theorem State.packSymbols_error_hasCause {i m : Nat} {p : Packer} (h : s.packSymbols i m p = .error x) : x.hasCause := by
  induction m generalizing i p with
  | zero => cases h
  | succ m ih =>
    rw [State.packSymbols] at h
    cases hr : engineRead (s.readSymbuf i) with
    | error e => rw [hr] at h; cases h; exact engineRead_error_hasCause hr
    | ok sym =>
      cases hc : s.codeOf sym.toNat with
      | error e => simp only [hr, hc] at h; cases h; exact State.codeBits_error_hasCause hc
      | ok code => simp only [hr, hc] at h; exact ih h

theorem State.encodeRun_error_hasCause (h : s.encodeRun = .error x) : x.hasCause := by
  unfold State.encodeRun at h
  dsimp only at h
  split_ifs at h with hn
  · cases h; simp
  · cases hc : s.checkSymbols 0 s.encNsym.toNat 0 with
    | error e => rw [hc] at h; cases h; exact State.checkSymbols_error_hasCause hc
    | ok total =>
      simp only [hc] at h
      split_ifs at h with ht
      · cases h; simp
      · cases hp : s.packSymbols 0 s.encNsym.toNat packBegin with
        | error e => rw [hp] at h; cases h; exact State.packSymbols_error_hasCause hp
        | ok p => rw [hp] at h; cases h

theorem State.walkMove_error_hasCause {root : NodeIx} {w : Walk} {b : Bool} {up : Unpacker} (h : s.walkMove root w b up = .error x) :
    x.hasCause := by
  unfold State.walkMove at h
  cases hn : engineRead (s.readRom w.cur.toNat) with
  | error e => rw [hn] at h; cases h; exact engineRead_error_hasCause hn
  | ok node =>
    simp only [hn] at h
    split_ifs at h with hr
    · cases h; simp
    · cases hc : engineRead (s.readRom (node.child b).toNat) with
      | error e => rw [hc] at h; cases h; exact engineRead_error_hasCause hc
      | ok child =>
        simp only [hc] at h
        split_ifs at h

theorem State.walkStep_error_hasCause {root : NodeIx} {w : Walk} (h : s.walkStep root w = .error x) : x.hasCause := by
  unfold State.walkStep at h
  rcases hu : engineRead (s.unpackBit w.up) with e | _ | ⟨b, up⟩ <;> rw [hu] at h
  · cases h; exact engineRead_error_hasCause hu
  · cases h; simp
  · exact State.walkMove_error_hasCause h

theorem State.walk_error_hasCause {root : NodeIx} {n bound : Nat} {w : Walk} (h : s.walk root n bound w = .error x) : x.hasCause := by
  induction bound generalizing w with
  | zero =>
    unfold State.walk at h
    split_ifs at h
    cases h; simp
  | succ bound ih =>
    by_cases hk : n ≤ w.k
    · rw [State.walk_done _ hk] at h; cases h
    · rw [State.walk_succ bound (Nat.not_le.1 hk)] at h
      cases hw : s.walkStep root w with
      | error e => rw [hw] at h; cases h; exact State.walkStep_error_hasCause hw
      | ok w' => rw [hw] at h; exact ih h

theorem State.decodeTree_error_hasCause {root : NodeIx} {n nbits : Nat} (h : s.decodeTree root n nbits = .error x) : x.hasCause := by
  unfold State.decodeTree at h
  cases hr : engineRead (s.readRom root.toNat) with
  | error e => rw [hr] at h; cases h; exact engineRead_error_hasCause hr
  | ok r =>
    simp only [hr] at h
    split_ifs at h
    cases hw : s.walk root n (nbits + 1) (walkBegin root nbits) with
    | error e => rw [hw] at h; cases h; exact State.walk_error_hasCause hw
    | ok w => rw [hw] at h; cases h

theorem State.decodeRun_error_hasCause (h : s.decodeRun = .error x) : x.hasCause := by
  unfold State.decodeRun at h
  dsimp only at h
  split_ifs at h
  · cases h; simp
  · cases h; simp
  · cases h; simp
  · cases h; simp
  · exact State.decodeTree_error_hasCause h

end Causes

section Encoder

/-- The packer's bit count is what it has staged: its whole bytes and the bits of the byte being assembled (43_bitpacker.md R120). -/
def Packer.Counts (p : Packer) : Prop := p.nacc < 8 ∧ p.total = 8 * p.out.length + p.nacc

theorem Packer.packBit_counts {p : Packer} (h : p.Counts) (b : Bool) : (p.packBit b).Counts := by
  obtain ⟨hn, ht⟩ := h
  by_cases hfull : p.nacc = 7
  · rw [Packer.packBit_full hfull]
    refine ⟨by simp, ?_⟩
    simp only [List.length_append, List.length_singleton]
    omega
  · rw [Packer.packBit_partial (by omega)]
    exact ⟨by dsimp only; omega, by dsimp only; omega⟩

theorem Packer.packCode_counts {p : Packer} (h : p.Counts) (c : List Bool) : (p.packCode c).Counts := by
  induction c generalizing p with
  | nil => exact h
  | cons b c ih => exact ih (Packer.packBit_counts h b)

/-- PACK_FLUSH leaves as many bytes as the bits need (R124, 44_encoder.md R132). -/
theorem Packer.flush_length {p : Packer} (h : p.Counts) : p.flush.out.length = ceilDiv p.total 8 := by
  obtain ⟨hn, ht⟩ := h
  unfold Packer.flush ceilDiv
  split_ifs with hpos
  · simp only [Packer.emit, List.length_append, List.length_singleton]
    omega
  · omega

variable {s : State}

theorem State.packSymbols_counts {i m : Nat} {p q : Packer} (hp : p.Counts) (h : s.packSymbols i m p = .ok q) : q.Counts := by
  induction m generalizing i p with
  | zero => cases h; exact hp
  | succ m ih =>
    obtain ⟨sym, code, -, -, hrest⟩ := State.packSymbols_succ_ok h
    exact ih (Packer.packCode_counts hp code) hrest

/-- Pass 2 packs as many bits as pass 1 counted: both read the same symbols, and a code has LEN bits. -/
theorem State.packSymbols_total {i m total t : Nat} {p q : Packer} (hc : s.checkSymbols i m total = .ok t) (hp : s.packSymbols i m p = .ok q) :
    q.total + total = p.total + t := by
  induction m generalizing i total p with
  | zero => cases hc; cases hp; rfl
  | succ m ih =>
    obtain ⟨sym, hsym, -, hcheck⟩ := State.checkSymbols_succ_ok hc
    obtain ⟨sym', code, hsym', hcode, hpack⟩ := State.packSymbols_succ_ok hp
    cases hsym.symm.trans hsym'
    have hlen : code.length = (s.lutHeader sym.toNat).len.toNat := State.codeBits_length hcode
    have hrest := ih hcheck hpack
    rw [Packer.packCode_total] at hrest
    omega

/-- A successful ENCODE stages its bits in whole bytes, and they fit BITBUF (44_encoder.md R131, R132). -/
theorem State.encodeRun_fits {r : EncodeResult} (h : s.encodeRun = .ok r) :
    r.bytes.length = ceilDiv r.total 8 ∧ r.total ≤ 8 * s.cfg.byteCap := by
  obtain ⟨p, -, hcheck, hcap, hpack, hbytes⟩ := State.encodeRun_ok h
  have hcounts : p.Counts := State.packSymbols_counts ⟨by decide, rfl⟩ hpack
  have htotal : p.total + 0 = 0 + r.total := State.packSymbols_total hcheck hpack
  have hsame : p.total = r.total := by omega
  exact ⟨by rw [hbytes, Packer.flush_length hcounts, hsame], hcap⟩

end Encoder

section Decoder

/-- What the walk keeps for `n` symbols out of `nbits` bits: the unpacker is inside its limit, the emitted symbols are counted, are not more
than asked for and are of the alphabet. -/
structure Walk.Bounded (c : Config) (n nbits : Nat) (w : Walk) : Prop where
  limit : w.up.limit = nbits
  rpos : w.up.rpos ≤ nbits
  count : w.symOut.length = w.k
  asked : w.k ≤ n
  syms : ∀ x ∈ w.symOut, x.toNat < c.alphabet

variable {s : State} {root : NodeIx} {n nbits : Nat}

theorem walkBegin_bounded (c : Config) (root : NodeIx) (n nbits : Nat) : (walkBegin root nbits).Bounded c n nbits :=
  ⟨rfl, Nat.zero_le _, rfl, Nat.zero_le _, fun _ hx => absurd hx List.not_mem_nil⟩

theorem State.walkStep_bounded {w w' : Walk} (hw : w.Bounded s.cfg n nbits) (hk : w.k < n) (h : s.walkStep root w = .ok w') :
    w'.Bounded s.cfg n nbits := by
  obtain ⟨limit, rpos, count, asked, syms⟩ := hw
  obtain ⟨v, node, child, hlt, -, -, -, -, hup, hmove⟩ := State.walkStep_ok h
  have hlimit : w'.up.limit = nbits := by rw [hup]; exact limit
  have hrpos : w'.up.rpos ≤ nbits := by rw [hup]; dsimp only; omega
  rcases hmove with ⟨-, -, hk', hout⟩ | ⟨-, -, hk', hout⟩
  · refine ⟨hlimit, hrpos, by rw [hout, hk', List.length_append, count, List.length_singleton], by omega, ?_⟩
    rw [hout]
    exact List.forall_mem_append.2 ⟨syms, List.forall_mem_singleton.2 (symOf_lt_alphabet s.cfg _)⟩
  · exact ⟨hlimit, hrpos, by rw [hout, hk', count], by omega, by rwa [hout]⟩

theorem State.walk_bounded {bound : Nat} {w w' : Walk} (hw : w.Bounded s.cfg n nbits) (h : s.walk root n bound w = .ok w') :
    w'.Bounded s.cfg n nbits := by
  induction bound generalizing w with
  | zero =>
    unfold State.walk at h
    split_ifs at h
    cases h; exact hw
  | succ bound ih =>
    by_cases hk : n ≤ w.k
    · rw [State.walk_done _ hk] at h; cases h; exact hw
    · rw [State.walk_succ bound (Nat.not_le.1 hk)] at h
      cases hstep : s.walkStep root w with
      | error e => rw [hstep] at h; cases h
      | ok w'' => rw [hstep] at h; exact ih (State.walkStep_bounded hw (Nat.not_le.1 hk) hstep) h

/-- What DECODE may commit for `n` symbols out of `nbits` bits. -/
structure DecodeResult.Fits (c : Config) (n nbits : Nat) (r : DecodeResult) : Prop where
  count : r.syms.length ≤ n
  syms : ∀ x ∈ r.syms, x.toNat < c.alphabet
  bits : r.bitsUsed ≤ nbits

theorem State.decodeTree_fits {r : DecodeResult} (h : s.decodeTree root n nbits = .ok r) : r.Fits s.cfg n nbits := by
  unfold State.decodeTree at h
  cases hr : engineRead (s.readRom root.toNat) with
  | error e => rw [hr] at h; cases h
  | ok node =>
    simp only [hr] at h
    split_ifs at h
    · cases h
      refine ⟨List.length_replicate.le, fun x hx => ?_, Nat.zero_le _⟩
      rw [List.eq_of_mem_replicate hx]
      exact symOf_lt_alphabet s.cfg _
    · cases hw : s.walk root n (nbits + 1) (walkBegin root nbits) with
      | error e => rw [hw] at h; cases h
      | ok w =>
        rw [hw] at h; cases h
        have hb := State.walk_bounded (walkBegin_bounded s.cfg root n nbits) hw
        exact ⟨hb.count.trans_le hb.asked, hb.syms, hb.rpos⟩

/-- A successful DECODE's symbols fit SYMBUF and its bits fit BITBUF (45_decoder.md R140, R148). -/
theorem State.decodeRun_fits {r : DecodeResult} (h : s.decodeRun = .ok r) : r.Fits s.cfg s.cfg.symCap (8 * s.cfg.byteCap) := by
  unfold State.decodeRun at h
  dsimp only at h
  split_ifs at h with hn hb
  · cases h
    exact ⟨Nat.zero_le _, fun _ hx => absurd hx List.not_mem_nil, Nat.zero_le _⟩
  · obtain ⟨count, syms, bits⟩ := State.decodeTree_fits h
    exact ⟨by omega, syms, by omega⟩

end Decoder

end Sys2Proof.Machine
end

section
/-! SUPPORT. Every step keeps the invariant (10_state.md R25 to R39): the transactions, the three ways a command finishes, and reset. -/

namespace Sys2Proof.Machine

section Finishing

variable {s : State}

/-- The record of a command that succeeded is consistent (10_state.md R26, R28). -/
theorem State.recordWf_of_success (hfail : s.fail = false) (hcause : s.cause = .none) (hinfo : s.errInfo = 0) : s.recordWf := by
  simp [State.recordWf, hfail, hcause, hinfo]

/-- The record of a command that failed with a cause is consistent. -/
theorem State.recordWf_of_failure (hdone : s.done = true) (hfail : s.fail = true) (hcause : s.cause ≠ .none) : s.recordWf := by
  simp [State.recordWf, hdone, hfail, hcause]

/-- A block with no command pending meets what is asked of a busy one. -/
theorem State.busyWf_of_idle (h : s.pending = none) : s.busyWf := fun hp => absurd h hp

theorem State.succeed_wf (h : s.wf) : s.succeed.wf := by
  obtain ⟨hcfg, hlut, hbuf, -, hregs⟩ := h
  exact ⟨hcfg, hlut, hbuf, State.busyWf_of_idle rfl, fun hf => ⟨State.recordWf_of_success rfl rfl rfl, (hregs hf).2⟩⟩

theorem State.raise_wf (h : s.wf) {c : Cause} (hc : c ≠ .none) (info : Word) : (s.raise c info).wf := by
  obtain ⟨hcfg, hlut, hbuf, -, hregs⟩ := h
  exact ⟨hcfg, hlut, hbuf, State.busyWf_of_idle rfl, fun hf => ⟨State.recordWf_of_failure rfl rfl hc, (hregs hf).2⟩⟩

/-- After a model fault the registers claim nothing, so only the memories matter (60_exceptions.md R166). -/
theorem State.engineFault_wf (h : s.wf) (f : Fault) (r : FinishRegs) : (s.engineFault f r).wf := by
  obtain ⟨hcfg, hlut, hbuf, -, -⟩ := h
  exact ⟨hcfg, hlut, hbuf, State.busyWf_of_idle rfl, fun hf => absurd hf (s.not_faultFree_setModelFault f)⟩

/-- CLEAR_LUT lists no new header and none that is the reset header (41_command_protocol.md R103). -/
theorem State.clearLut_lutWf (h : s.lutWf) : { s with lutHdr := Memory.clearV s.lutHdr }.lutWf := by
  obtain ⟨hhdr, -, hhdrB, hcode⟩ := h
  refine ⟨Memory.clearV_wf hhdr, Memory.clearV_noZeroHeader _, fun p hp => ?_, hcode⟩
  obtain ⟨-, -, hdr, hmem, -⟩ := Memory.mem_clearV hp
  exact hhdrB (p.1, hdr) hmem

end Finishing

section Codec

variable {s : State}

/-- A count of bits of the largest buffer fits a 32-bit register (10_state.md R30, R33). -/
theorem toNat_bitCount {c : Config} (hc : c.wf) {n : Nat} (hn : n ≤ 8 * c.byteCap) : (BitVec.ofNat 32 n).toNat = n := by
  obtain ⟨-, -, -, -, hcap⟩ := hc
  rw [BitVec.toNat_ofNat]
  omega

theorem State.commitEncode_wf (h : s.wf) {r : EncodeResult} (hr : s.encodeRun = .ok r) : (s.commitEncode r).wf := by
  obtain ⟨hcfg, hlut, ⟨hrom, hromB, hsym, hsymB, hbit, hbitB⟩, -, hregs⟩ := h
  obtain ⟨hbytes, htotal⟩ := State.encodeRun_fits hr
  have hlen : r.bytes.length ≤ s.cfg.byteCap := by rw [hbytes, ceilDiv]; omega
  refine ⟨hcfg, hlut, ⟨hrom, hromB, hsym, hsymB, Memory.writeFrom_wf hbit _ _, fun p hp => ?_⟩, State.busyWf_of_idle rfl,
    fun hf => ⟨State.recordWf_of_success rfl rfl rfl, ?_⟩⟩
  · rcases Memory.mem_writeFrom hp with ⟨hlt, -⟩ | hp
    · change p.1 < s.cfg.byteCap
      omega
    · exact hbitB p hp
  · obtain ⟨-, -, -, hused⟩ := hregs hf
    have hbitlen : (s.commitEncode r).encBitlen.toNat = r.total := toNat_bitCount hcfg htotal
    have hbytelen : (s.commitEncode r).encBytelen.toNat = r.bytes.length := toNat_bitCount hcfg (by omega)
    exact ⟨by rw [hbytelen, hbitlen, hbytes], hbitlen.trans_le htotal, hused⟩

theorem State.failEncode_wf (h : s.wf) {c : Cause} (hc : c ≠ .none) (info : Word) : (s.failEncode c info).wf := by
  obtain ⟨hcfg, hlut, hbuf, hbusy, hregs⟩ := State.raise_wf h hc info
  refine ⟨hcfg, hlut, hbuf, hbusy, fun hf => ?_⟩
  obtain ⟨hrecord, -, -, hused⟩ := hregs hf
  exact ⟨hrecord, by simp [ceilDiv], Nat.zero_le _, hused⟩

theorem State.faultEncode_wf (h : s.wf) (f : Fault) : (s.faultEncode f).wf := by
  obtain ⟨hcfg, hlut, ⟨hrom, hromB, hsym, hsymB, -, -⟩, hbusy, -⟩ := State.engineFault_wf h f (Config.freeFinish s.fresh)
  exact ⟨hcfg, hlut, ⟨hrom, hromB, hsym, hsymB, List.Pairwise.nil, List.forall_mem_nil _⟩, hbusy,
    fun hf => absurd hf (s.not_faultFree_setModelFault f)⟩

theorem execEncode_wf {t : State} (h : s.wf) (he : execEncode s = .next t) : t.wf := by
  rcases execEncode_cases s with ⟨r, hr, hx⟩ | ⟨c, info, hr, hx⟩ | ⟨f, -, hx⟩ <;> cases hx.symm.trans he
  · exact State.commitEncode_wf h hr
  · exact State.failEncode_wf h (State.encodeRun_error_hasCause hr) info
  · exact State.faultEncode_wf h f

theorem State.commitDecode_wf (h : s.wf) {r : DecodeResult} (hr : s.decodeRun = .ok r) : (s.commitDecode r).wf := by
  obtain ⟨hcfg, hlut, ⟨hrom, hromB, hsym, hsymB, hbit⟩, -, hregs⟩ := h
  obtain ⟨count, syms, bits⟩ := State.decodeRun_fits hr
  refine ⟨hcfg, hlut, ⟨hrom, hromB, Memory.writeFrom_wf hsym _ _, fun p hp => ?_, hbit⟩, State.busyWf_of_idle rfl,
    fun hf => ⟨State.recordWf_of_success rfl rfl rfl, ?_⟩⟩
  · rcases Memory.mem_writeFrom hp with ⟨hlt, hmem⟩ | hp
    · exact ⟨by change p.1 < s.cfg.symCap; omega, syms _ hmem⟩
    · exact hsymB p hp
  · obtain ⟨-, hbytelen, hbitlen, -⟩ := hregs hf
    exact ⟨hbytelen, hbitlen, (toNat_bitCount hcfg bits).trans_le bits⟩

theorem State.failDecode_wf (h : s.wf) {c : Cause} (hc : c ≠ .none) (info : Word) : (s.failDecode c info).wf := by
  obtain ⟨hcfg, hlut, hbuf, hbusy, hregs⟩ := State.raise_wf h hc info
  refine ⟨hcfg, hlut, hbuf, hbusy, fun hf => ?_⟩
  obtain ⟨hrecord, hbytelen, hbitlen, -⟩ := hregs hf
  exact ⟨hrecord, hbytelen, hbitlen, Nat.zero_le _⟩

theorem State.faultDecode_wf (h : s.wf) (f : Fault) : (s.faultDecode f).wf := by
  obtain ⟨hcfg, hlut, ⟨hrom, hromB, -, -, hbit⟩, hbusy, -⟩ := State.engineFault_wf h f (Config.freeFinish s.fresh)
  exact ⟨hcfg, hlut, ⟨hrom, hromB, List.Pairwise.nil, List.forall_mem_nil _, hbit⟩, hbusy,
    fun hf => absurd hf (s.not_faultFree_setModelFault f)⟩

theorem execDecode_wf {t : State} (h : s.wf) (he : execDecode s = .next t) : t.wf := by
  rcases execDecode_cases s with ⟨r, hr, hx⟩ | ⟨c, info, hr, hx⟩ | ⟨f, -, hx⟩ <;> cases hx.symm.trans he
  · exact State.commitDecode_wf h hr
  · exact State.failDecode_wf h (State.decodeRun_error_hasCause hr) info
  · exact State.faultDecode_wf h f

end Codec

section Transactions

variable {s t : State}

/-- An accepted command clears the record, so the block is busy with no result recorded (41_command_protocol.md R95). -/
theorem State.accept_wf (h : s.wf) (w : Word) : (s.accept w).wf := by
  obtain ⟨hcfg, hlut, hbuf, -, hregs⟩ := h
  exact ⟨hcfg, hlut, hbuf, fun _ => ⟨rfl, rfl, rfl, rfl⟩, fun hf => ⟨State.recordWf_of_success rfl rfl rfl, (hregs hf).2⟩⟩

theorem State.uninitHostRead_wf (h : s.wf) (f : Fault) : (s.uninitHostRead f).wf := by
  obtain ⟨hcfg, hlut, hbuf, hbusy, -⟩ := h
  exact ⟨hcfg, hlut, hbuf, hbusy, fun hf => absurd hf (s.not_faultFree_setModelFault f)⟩

/-- RD changes nothing that the invariant speaks of but the model fault. -/
theorem execRd_wf {a : Addr} (h : s.wf) (he : execRd a s = .next t) : t.wf := by
  rcases execRd_cases a s with ⟨-, hx⟩ | ⟨l, v, -, -, hx⟩ | ⟨l, f, -, -, hx⟩ <;> cases hx.symm.trans he
  · exact h
  · exact h
  · exact State.uninitHostRead_wf h f

/-- WR changes what the invariant speaks of only by accepting a command or by storing in a mapped location. -/
theorem execWr_wf {a : Addr} {d : Word} (h : s.wf) (he : execWr a d s = .next t) : t.wf := by
  rcases execWr_cases a d s with ⟨-, hx⟩ | ⟨-, -, hx⟩ | ⟨-, -, hx⟩ | ⟨-, -, -, hx⟩ | ⟨l, -, -, htarget, hx⟩ <;> cases hx.symm.trans he
  · exact h
  · exact State.accept_wf h d
  · exact h
  · exact h
  · obtain ⟨-, hmapped, -, -⟩ := State.writeTarget_eq_some.1 htarget
    exact State.writeLoc_wf h (mapped_inBounds hmapped) d

end Transactions

theorem exec_wf {i : Instr} {s t : State} (h : s.wf) (he : exec i s = .next t) : t.wf := by
  cases i with
  | nop => cases he; exact State.succeed_wf h
  | encode => exact execEncode_wf h he
  | decode => exact execDecode_wf h he
  | clearLut =>
    cases he
    obtain ⟨hcfg, hlut, hrest⟩ := h
    exact State.succeed_wf ⟨hcfg, State.clearLut_lutWf hlut, hrest⟩
  | badCmd w => cases he; exact State.raise_wf h (by decide) w
  | rd a => exact execRd_wf h he
  | wr a d => exact execWr_wf h he

/-- A reset keeps the configuration; every memory is empty and every register 0. -/
theorem State.applyReset_wf {s : State} (hcfg : s.cfg.wf) : s.applyReset.wf := by
  refine ⟨hcfg, ?_, ?_, State.busyWf_of_idle rfl, fun _ => ⟨State.recordWf_of_success rfl rfl rfl, ?_⟩⟩
  · simp [State.lutWf, State.reset]
  · simp [State.bufWf, State.reset]
  · simp [State.resultWf, State.reset, ceilDiv]

/-- Settles O13: an instruction keeps the invariant, a reset establishes it, and the schedule is no part of it. -/
theorem stepKeepsTheInvariant : Obligations.StepKeepsTheInvariant := by
  intro s t h hstep
  obtain ⟨rest, rfl | ⟨i, he⟩ | ⟨-, rfl⟩⟩ := step_next_cases hstep
  · exact h
  · exact exec_wf (s := { s with schedule := rest }) h he
  · exact State.applyReset_wf h.1

end Sys2Proof.Machine
end

section
/-! SUPPORT. Where a bus address leads: the byte address of a location (20_memory.md R49, R55 to R59), the addresses of R52 that lead
nowhere, and what a host transaction leaves unchanged at every other address (R51 to R53). -/

namespace Sys2Proof.Machine

open Sys2Proof.Claims

section Addresses

variable {c : Config} {a : Addr} {l : Loc}

theorem misaligned_eq_false_iff : misaligned a = false ↔ a.toNat % 4 = 0 := by
  simp [misaligned, BitVec.toNat_eq]

/-- The location is at this byte address: a register at its offset (10_state.md R18), a window cell where `CellAt` says. -/
def LocAt (c : Config) (a : Nat) : Loc → Prop
  | .reg r => a = r.offset
  | l => CellAt c a l

theorem LocAt.reg_or_cell {m : Nat} (h : LocAt c m l) : (∃ r, l = .reg r ∧ m = r.offset) ∨ CellAt c m l := by
  cases l with
  | reg r => exact .inl ⟨r, rfl, h⟩
  | _ => exact .inr h

theorem LocAt.addr_unique {m n : Nat} (hm : LocAt c m l) (hn : LocAt c n l) : m = n := by
  cases l <;> simp only [LocAt, CellAt] at hm hn <;> omega

theorem lutLoc_locAt (halign : a.toNat % 4 = 0) (hregion : a.toNat / 0x10000 = 1) (h : lutLoc c (a.toNat % 0x10000 / 4) = some l) :
    LocAt c a.toNat l := by
  unfold lutLoc at h
  split_ifs at h with hsym hhead hword
  · cases h
    exact ⟨hsym, by omega⟩
  · cases h
    exact ⟨hsym, by omega, by omega⟩

/-- An aligned address that is mapped is the address of the location it names. -/
theorem mapped_locAt (halign : a.toNat % 4 = 0) (h : mapped c a = some l) : LocAt c a.toNat l := by
  unfold mapped at h
  dsimp only at h
  split_ifs at h with h0 h1 h2 hrom h3 hsym h4 hbit
  · obtain ⟨r, hr, rfl⟩ := Option.map_eq_some_iff.1 h
    have hoff : r.offset = a.toNat % 0x10000 := Reg.offset_of_ofOffset hr
    change a.toNat = r.offset
    omega
  · exact lutLoc_locAt halign h1 h
  · cases h; exact ⟨hrom, by omega⟩
  · cases h; exact ⟨hsym, by omega⟩
  · cases h; exact ⟨hbit, by omega⟩

/-- Two aligned addresses that name one location are the same address (R51). -/
theorem mapped_inj {b : Addr} (ha : a.toNat % 4 = 0) (hb : b.toNat % 4 = 0) (hla : mapped c a = some l) (hlb : mapped c b = some l) :
    a = b :=
  BitVec.eq_of_toNat_eq (LocAt.addr_unique (mapped_locAt ha hla) (mapped_locAt hb hlb))

theorem Reg.offset_mem_registerOffsets (r : Reg) : r.offset ∈ registerOffsets := by cases r <;> decide

theorem Reg.offset_lt (r : Reg) : r.offset < 0x100 := by cases r <;> decide

/-- A register's address is mapped in every configuration. -/
theorem Reg.not_unmapped_offset (c : Config) (r : Reg) : ¬ Unmapped c r.offset := by
  have hmem := r.offset_mem_registerOffsets
  have hlt := r.offset_lt
  rintro (⟨-, hnot⟩ | hrest)
  · exact hnot hmem
  · omega

theorem Config.alphabet_le (hc : c.wf) : c.alphabet ≤ 256 :=
  Nat.pow_le_pow_right (by decide) hc.1.2

/-- A window cell lies inside its window, which ends where the next one begins (R49). -/
theorem cellAt_inWindow {m : Nat} (hc : c.wf) (h : CellAt c m l) : InWindow m := by
  have halpha := Config.alphabet_le hc
  obtain ⟨-, ⟨-, hmax⟩, ⟨-, hsym⟩, -, hbyte⟩ := hc
  unfold InWindow
  cases l <;> simp only [CellAt, Config.codeWords, ceilDiv, Config.nodes] at h <;> omega

/-- A window cell's address is none of R55 to R59's unmapped ones. -/
theorem cellAt_not_unmapped {m : Nat} (hc : c.wf) (h : CellAt c m l) : ¬ Unmapped c m := by
  have halpha := Config.alphabet_le hc
  obtain ⟨-, ⟨-, hmax⟩, ⟨-, hsym⟩, -, hbyte⟩ := hc
  unfold Unmapped
  cases l <;> simp only [CellAt, Config.codeWords, ceilDiv, Config.nodes] at h ⊢ <;> omega

/-- An address that names a location is mapped in the spec's terms as well (R49, R55 to R59). -/
theorem LocAt.not_unmapped {m : Nat} (hc : c.wf) (h : LocAt c m l) : ¬ Unmapped c m := by
  rcases h.reg_or_cell with ⟨r, -, rfl⟩ | hcell
  · exact Reg.not_unmapped_offset c r
  · exact cellAt_not_unmapped hc hcell

/-- No register lies inside a window (R49). -/
theorem LocAt.isWindow_of_inWindow {m : Nat} (h : LocAt c m l) (hm : InWindow m) : l.isWindow = true := by
  cases l with
  | reg r =>
    cases h
    have hlow := r.offset_lt
    obtain ⟨hbase, -⟩ := hm
    omega
  | _ => rfl

theorem Reg.offset_not_readOnly_of_isRw {r : Reg} (h : (Loc.reg r).isRw = true) : r.offset ∉ readOnlyOffsets := by
  revert h
  cases r <;> decide

/-- A location that stores what is written to it is at no read-only register's address. -/
theorem LocAt.not_readOnly {m : Nat} (hc : c.wf) (h : LocAt c m l) (hrw : l.isRw = true) : m ∉ readOnlyOffsets := by
  rcases h.reg_or_cell with ⟨r, rfl, rfl⟩ | hcell
  · exact Reg.offset_not_readOnly_of_isRw hrw
  · have hlow : ∀ n ∈ readOnlyOffsets, n < 0x100 := by decide
    intro hmem
    have hlt := hlow m hmem
    obtain ⟨hbase, -⟩ := cellAt_inWindow hc hcell
    omega

end Addresses

section BusErrors

variable {s : State} {a : Addr}

theorem State.busy_eq_false_iff : s.busy = false ↔ s.pending = none := by simp [State.busy]

/-- A read that R52 calls a bus error leads nowhere. -/
theorem State.readTarget_of_badRead (hc : s.cfg.wf) (h : BadRead s a.toNat) : s.readTarget a = none := by
  cases ht : s.readTarget a with
  | none => rfl
  | some l =>
    obtain ⟨hword, hmapped, hopen⟩ := State.readTarget_eq_some.1 ht
    have halign := misaligned_eq_false_iff.1 hword
    have hat := mapped_locAt halign hmapped
    rcases h with hmis | hunmapped | ⟨hpending, hwindow⟩
    · exact absurd halign hmis
    · exact absurd hunmapped (hat.not_unmapped hc)
    · rw [hat.isWindow_of_inWindow hwindow, Bool.and_true] at hopen
      exact absurd (State.busy_eq_false_iff.1 hopen) hpending

/-- A write that R52 calls a bus error stores nowhere. -/
theorem State.writeTarget_of_badWrite (hc : s.cfg.wf) (h : BadWrite s a.toNat) : s.writeTarget a = none := by
  cases ht : s.writeTarget a with
  | none => rfl
  | some l =>
    obtain ⟨hword, hmapped, hrw, hidle⟩ := State.writeTarget_eq_some.1 ht
    have halign := misaligned_eq_false_iff.1 hword
    have hat := mapped_locAt halign hmapped
    rcases h with hmis | hunmapped | hreadOnly | ⟨hpending, -⟩
    · exact absurd halign hmis
    · exact absurd hunmapped (hat.not_unmapped hc)
    · exact absurd hreadOnly (hat.not_readOnly hc hrw)
    · exact absurd (State.busy_eq_false_iff.1 hidle) hpending

/-- CMD and STATUS are written whatever the value of BUSY: no write of them is a bus error (R52). -/
theorem not_badWrite_of_cmd_or_status {r : Reg} (hr : r = .cmd ∨ r = .status) : ¬ BadWrite s r.offset := by
  have hlow := r.offset_lt
  rintro (hmis | hunmapped | hreadOnly | ⟨-, ⟨hbase, -⟩ | hrw⟩)
  · rcases hr with rfl | rfl <;> exact hmis rfl
  · exact Reg.not_unmapped_offset s.cfg r hunmapped
  · rcases hr with rfl | rfl <;> revert hreadOnly <;> decide
  · omega
  · rcases hr with rfl | rfl <;> revert hrw <;> decide

theorem execRd_of_badRead (hc : s.cfg.wf) (h : BadRead s a.toNat) : execRd a s = .next s.busErrorRead := by
  simp only [execRd, State.readTarget_of_badRead hc h]

theorem execWr_of_badWrite (hc : s.cfg.wf) (h : BadWrite s a.toNat) (d : Word) : execWr a d s = .next s.busErrorWrite := by
  have hstatus : a.toNat ≠ Reg.status.offset := fun he => not_badWrite_of_cmd_or_status (.inr rfl) (he ▸ h)
  have hcmd : a.toNat ≠ Reg.cmd.offset := fun he => not_badWrite_of_cmd_or_status (.inl rfl) (he ▸ h)
  simp only [execWr, if_neg hstatus, if_neg hcmd, State.writeTarget_of_badWrite hc h]

/-- Settles O19: R52's addresses are those that the model's decoding of an access leads nowhere from. -/
theorem busErrorsOnlySetBuserr : Obligations.BusErrorsOnlySetBuserr :=
  fun s _ d hc => ⟨fun h => execRd_of_badRead hc h, fun h => ⟨s.rdata, execWr_of_badWrite hc h d⟩⟩

end BusErrors

section Frames

variable {s t : State} {l : Loc}

/-- Settles O20: a read is a bus error, returns a value, or returns a free one and records the model fault (R53). -/
theorem rdChangesNoState : Obligations.RdChangesNoState := by
  intro s t a h
  rcases execRd_cases a s with ⟨-, he⟩ | ⟨l, v, -, -, he⟩ | ⟨l, f, -, -, he⟩ <;> cases he.symm.trans h
  · exact ⟨by rw [State.busErrorRead_err, Bool.or_true]; rfl, fun _ => ⟨rfl, rfl, rfl⟩⟩
  · exact ⟨by rw [State.respondRead_err, Bool.or_false]; rfl, nofun⟩
  · exact ⟨by rw [State.uninitHostRead_err, Bool.or_false]; rfl, nofun⟩

/-- Two states that differ in the pending command, the record of the last one, the sticky bits and the error port read the same at every
location but STATUS, and at ERR_INFO where they agree on it. -/
theorem State.locValue_of_flags
    (ht : t = { s with pending := t.pending, done := t.done, fail := t.fail, cause := t.cause, errInfo := t.errInfo, ovr := t.ovr,
                       busErr := t.busErr, err := t.err })
    (hstatus : l ≠ .reg .status) (hinfo : l = .reg .errInfo → t.errInfo = s.errInfo) : t.locValue l = s.locValue l := by
  rw [ht]
  cases l with
  | reg r =>
    cases r with
    | status => exact absurd rfl hstatus
    | errInfo => exact congrArg Except.ok (hinfo rfl)
    | _ => rfl
  | _ => rfl

/-- Storing in one register changes the value of no other. -/
theorem State.regValue_writeLoc {q r : Reg} (h : q ≠ r) (d : Word) : (s.writeLoc d (.reg r)).regValue q = s.regValue q := by
  cases r with
  | encNsym | decNsym | decNbits | treeCfg =>
    cases q <;> try contradiction
    all_goals rfl
  | _ => rfl

/-- Storing in one location leaves every other one as it reads (R51). -/
theorem State.locValue_writeLoc {k : Loc} (hs : s.lutWf) (hl : l.inBounds s.cfg) (hk : k.inBounds s.cfg) (h : k ≠ l) (d : Word) :
    (s.writeLoc d l).locValue k = s.locValue k := by
  obtain ⟨hhdr, -⟩ := hs
  cases l with
  | reg r =>
    cases k with
    | reg q => exact congrArg Except.ok (State.regValue_writeLoc (fun he => h (congrArg Loc.reg he)) d)
    | _ => cases r <;> rfl
  | lutHeader sym =>
    cases k with
    | lutHeader sym' =>
      have hne : sym' ≠ sym := fun he => h (congrArg Loc.lutHeader he)
      simp only [State.locValue, State.writeLoc, State.lutHeader, Memory.readHeader_writeHeader hhdr, if_neg hne]
    | _ => rfl
  | lutWord sym w =>
    cases k with
    | lutWord sym' w' =>
      obtain ⟨-, -, hw⟩ := hl
      obtain ⟨-, -, hw'⟩ := hk
      have hne : lutCodeIndex sym' w' ≠ lutCodeIndex sym w := fun he => by
        unfold lutCodeIndex at he
        exact h (by rw [show sym' = sym by omega, show w' = w by omega])
      simp only [State.locValue, State.writeLoc, State.readLutCode, Memory.read_write_other _ hne]
    | _ => rfl
  | rom i =>
    cases k with
    | rom j =>
      have hne : j ≠ i := fun he => h (congrArg Loc.rom he)
      simp only [State.locValue, State.writeLoc, State.readRom, Memory.read_write_other _ hne]
    | _ => rfl
  | symbuf i =>
    cases k with
    | symbuf j =>
      have hne : j ≠ i := fun he => h (congrArg Loc.symbuf he)
      simp only [State.locValue, State.writeLoc, State.readSymbuf, Memory.read_write_other _ hne]
    | _ => rfl
  | bitbuf i =>
    cases k with
    | bitbuf j =>
      have hne : j ≠ i := fun he => h (congrArg Loc.bitbuf he)
      simp only [State.locValue, State.writeLoc, State.readBitbuf, Memory.read_write_other _ hne]
    | _ => rfl

/-- The `err` port is no part of any location. -/
theorem State.locValue_respondWrite (s : State) (l : Loc) : s.respondWrite.locValue l = s.locValue l := by cases l <;> rfl

/-- Storing in a location keeps the configuration and the model's own fields. -/
theorem State.writeLoc_ownFields (s : State) (d : Word) (l : Loc) :
    (s.writeLoc d l).cfg = s.cfg ∧ (s.writeLoc d l).schedule = s.schedule ∧ (s.writeLoc d l).fresh = s.fresh := by
  cases l with
  | reg r => cases r <;> exact ⟨rfl, rfl, rfl⟩
  | _ => exact ⟨rfl, rfl, rfl⟩

theorem execWr_ownFields {a : Addr} {d : Word} (h : execWr a d s = .next t) :
    t.cfg = s.cfg ∧ t.modelFault = s.modelFault ∧ t.schedule = s.schedule ∧ t.fresh = s.fresh := by
  rcases execWr_cases a d s with ⟨-, he⟩ | ⟨-, -, he⟩ | ⟨-, -, he⟩ | ⟨-, -, -, he⟩ | ⟨l, -, -, -, he⟩ <;> cases he.symm.trans h
  · exact ⟨rfl, rfl, rfl, rfl⟩
  · exact ⟨rfl, rfl, rfl, rfl⟩
  · exact ⟨rfl, rfl, rfl, rfl⟩
  · exact ⟨rfl, rfl, rfl, rfl⟩
  · obtain ⟨hcfg, hschedule, hfresh⟩ := State.writeLoc_ownFields s d l
    exact ⟨hcfg, State.writeLoc_modelFault s d l, hschedule, hfresh⟩

/-- Settles O27: a write of CMD or STATUS, or a bus error, changes flags only; any other write stores in the one location that its address
names. -/
theorem wrChangesOneLocation : Obligations.WrChangesOneLocation := by
  intro s t a d _ hlut h
  refine ⟨execWr_ownFields h, fun b k hne hb hk hstatus hinfo => ?_⟩
  rcases execWr_cases a d s with ⟨-, he⟩ | ⟨hcmd, -, he⟩ | ⟨-, -, he⟩ | ⟨-, -, -, he⟩ | ⟨l, -, -, htarget, he⟩ <;> cases he.symm.trans h
  · exact State.locValue_of_flags rfl hstatus fun _ => rfl
  · exact State.locValue_of_flags rfl hstatus fun hk => absurd hk (hinfo hcmd)
  · exact State.locValue_of_flags rfl hstatus fun _ => rfl
  · exact State.locValue_of_flags rfl hstatus fun _ => rfl
  · obtain ⟨hword, hl, -, -⟩ := State.writeTarget_eq_some.1 htarget
    have hother : k ≠ l := fun hkl => hne (mapped_inj hb (misaligned_eq_false_iff.1 hword) (hkl ▸ hk) hl)
    rw [State.locValue_respondWrite]
    exact State.locValue_writeLoc hlut (mapped_inBounds hl) (mapped_inBounds hk) hother d

end Frames

end Sys2Proof.Machine
end

section
/-! SUPPORT. The two word formats (30_encoding.md R65 to R67, R78, R79): a word is its fields put together, and the decoder reads an
instruction from exactly the words that the encoder gives it. -/

namespace Sys2Proof

section CommandWords

variable {w : Word}

/-- A command word is RSV above OP (R65). -/
@[simp] theorem cmdWord_cmdRsv_cmdOp (w : Word) : cmdWord (cmdRsv w) (cmdOp w) = w :=
  (BitVec.extractLsb'_append_extractLsb'_eq_extractLsb' rfl).trans BitVec.extractLsb'_eq_self

/-- The four words of R66 are those whose RSV is 0 and whose OP has a row. -/
theorem namedCmdWord_iff :
    namedCmdWord w = true ↔ w = cmdWord 0 0x00 ∨ w = cmdWord 0 0x01 ∨ w = cmdWord 0 0x02 ∨ w = cmdWord 0 0x03 := by
  simp [namedCmdWord, cmdWord, or_assoc]

/-- A word that R66 does not name decodes as reserved (R67): by its RSV, or by its OP where RSV is 0. -/
theorem decodeCmd_of_not_named (h : namedCmdWord w = false) : decodeCmd w = .badCmd w := by
  unfold decodeCmd
  split
  · rfl
  next hrsv =>
    have hword : w = cmdWord 0 (cmdOp w) := by rw [← not_not.1 hrsv, cmdWord_cmdRsv_cmdOp]
    have hop : ∀ op, namedCmdWord (cmdWord 0 op) = true → cmdOp w ≠ op := by
      rintro op hnamed rfl
      rw [← hword, h] at hnamed
      cases hnamed
    rw [if_neg (hop 0x00 rfl), if_neg (hop 0x01 rfl), if_neg (hop 0x02 rfl), if_neg (hop 0x03 rfl)]

/-- Every command word is a well-formed instruction, and the encoding of it (R79). -/
theorem decodeCmd_wf_encode (w : Word) : (decodeCmd w).wf = true ∧ encode (decodeCmd w) = .cmd w := by
  cases h : namedCmdWord w with
  | false => simp [decodeCmd_of_not_named h, Instr.wf, encode, h]
  | true => rcases namedCmdWord_iff.1 h with rfl | rfl | rfl | rfl <;> exact ⟨rfl, rfl⟩

end CommandWords

section TransactionWords

variable {w : TxnWord} {i : Instr}

/-- WE as a field of one bit. -/
theorem ofBool_txnWe (w : TxnWord) : BitVec.ofBool (txnWe w) = w.extractLsb' 63 1 := by
  ext k hk
  obtain rfl : k = 0 := by omega
  simp [txnWe]

@[simp] theorem txnWe_txnWord (we : Bool) (addr : Addr) (data : Word) : txnWe (txnWord we addr data) = we :=
  BitVec.ofBool_eq_iff_eq.1 ((ofBool_txnWe _).trans ((BitVec.extractLsb'_append_eq_of_le (by decide)).trans
    ((BitVec.extractLsb'_append_eq_of_le (by decide)).trans BitVec.extractLsb'_append_eq_left)))

@[simp] theorem txnMbz_txnWord (we : Bool) (addr : Addr) (data : Word) : txnMbz (txnWord we addr data) = 0 :=
  (BitVec.extractLsb'_append_eq_of_le (by decide)).trans
    ((BitVec.extractLsb'_append_eq_of_le (by decide)).trans BitVec.extractLsb'_append_eq_right)

@[simp] theorem txnAddr_txnWord (we : Bool) (addr : Addr) (data : Word) : txnAddr (txnWord we addr data) = addr :=
  (BitVec.extractLsb'_append_eq_of_le (by decide)).trans BitVec.extractLsb'_append_eq_right

@[simp] theorem txnData_txnWord (we : Bool) (addr : Addr) (data : Word) : txnData (txnWord we addr data) = data :=
  BitVec.extractLsb'_append_eq_right

/-- A word whose must-be-zero bits are 0 is its three other fields put together (R78). -/
theorem txnWord_txnWe_txnAddr_txnData (h : txnMbz w = 0) : txnWord (txnWe w) (txnAddr w) (txnData w) = w := by
  unfold txnWord
  rw [ofBool_txnWe, ← h, txnMbz, txnAddr, txnData,
    BitVec.extractLsb'_append_extractLsb'_eq_extractLsb' (show 63 = 51 + 12 from rfl),
    BitVec.extractLsb'_append_extractLsb'_eq_extractLsb' (show 51 = 32 + 19 from rfl),
    BitVec.extractLsb'_append_extractLsb'_eq_extractLsb' (show 32 = 0 + 32 from rfl)]
  exact BitVec.extractLsb'_eq_self

/-- The words that are transactions: a write's fields with WE set, and a read's address with WE and DATA 0 (R78). -/
theorem decodeTxn_eq_ok_iff : decodeTxn w = .ok i ↔
    (∃ addr data, w = txnWord true addr data ∧ i = .wr addr data) ∨ (∃ addr, w = txnWord false addr 0 ∧ i = .rd addr) := by
  constructor
  · intro h
    unfold decodeTxn at h
    split at h
    · cases h
    next hmbz =>
      have hword := txnWord_txnWe_txnAddr_txnData (not_not.1 hmbz)
      split at h
      next hwe =>
        cases h
        exact .inl ⟨_, _, by rw [← hwe, hword], rfl⟩
      next hwe =>
        split at h
        · cases h
        next hdata =>
          cases h
          exact .inr ⟨_, by rw [← eq_false_of_ne_true hwe, ← not_not.1 hdata, hword], rfl⟩
  · rintro (⟨addr, data, rfl, rfl⟩ | ⟨addr, rfl, rfl⟩) <;> simp [decodeTxn]

/-- A word that R78 excludes by its must-be-zero bits, or as a read with DATA, is no transaction. -/
theorem decodeTxn_error_of_nonzero (h : txnMbz w ≠ 0 ∨ (txnWe w = false ∧ txnData w ≠ 0)) : ∃ e, decodeTxn w = .error e := by
  cases hd : decodeTxn w with
  | error e => exact ⟨e, rfl⟩
  | ok i => rcases decodeTxn_eq_ok_iff.1 hd with ⟨addr, data, rfl, -⟩ | ⟨addr, rfl, -⟩ <;> simp at h

@[simp] theorem decodeCode_txn_eq_ok_iff : decodeCode (.txn w) = .ok i ↔ decodeTxn w = .ok i := by
  cases hd : decodeTxn w <;> simp [decodeCode, hd]

end TransactionWords

/-- Settles O2: a reserved word is none of the four named ones, and the other operands are fields of the word. -/
theorem decodeInvertsEncode : Obligations.DecodeInvertsEncode := by
  intro i hwf
  cases i with
  | nop | encode | decode | clearLut => rfl
  | badCmd w => exact congrArg Except.ok (decodeCmd_of_not_named (by simpa [Instr.wf] using hwf))
  | rd addr => exact decodeCode_txn_eq_ok_iff.2 (decodeTxn_eq_ok_iff.2 (.inr ⟨addr, rfl, rfl⟩))
  | wr addr data => exact decodeCode_txn_eq_ok_iff.2 (decodeTxn_eq_ok_iff.2 (.inl ⟨addr, data, rfl, rfl⟩))

/-- Settles O3: every command word decodes, and a transaction word only where it is the encoding of a WR or an RD. -/
theorem encodeInvertsDecode : Obligations.EncodeInvertsDecode := by
  intro c i h
  cases c with
  | cmd w =>
    cases h
    exact decodeCmd_wf_encode w
  | txn w =>
    rcases decodeTxn_eq_ok_iff.1 (decodeCode_txn_eq_ok_iff.1 h) with ⟨addr, data, rfl, rfl⟩ | ⟨addr, rfl, rfl⟩ <;> exact ⟨rfl, rfl⟩

section TableWords

variable {w : Nat} {i : Instr}

/-- A table word of 32 bits is a command word, so it always decodes (R79). -/
theorem decodeTableWord_cmd (w : Nat) : decodeTableWord 32 w = some (decodeCmd (BitVec.ofNat 32 w)) := rfl

/-- A table word of 64 bits is a transaction word. -/
theorem decodeTableWord_txn_eq_some_iff : decodeTableWord 64 w = some i ↔ decodeTxn (BitVec.ofNat 64 w) = .ok i := by
  cases hd : decodeTxn (BitVec.ofNat 64 w) <;> simp [decodeTableWord, codeOfTable, decodeCode, hd]

end TableWords

/-- Settles O1: the four words of R66, a reserved one, and a WR, the CMD write and an RD of program P1. -/
theorem sampleWordsDecode : Obligations.SampleWordsDecode := by
  unfold Obligations.SampleWordsDecode
  decide

end Sys2Proof
end

section
/-! SUPPORT. What a step runs when its entry of the schedule is a transaction word or the engine's turn (20_memory.md R61, 41_command_protocol.md
R96), and so what it runs of a word just placed (assumption log 2). -/

namespace Sys2Proof.Machine

variable {s : State} {rest : List Event} {i : Instr}

/-- The host's turn runs the transaction that its word decodes to. -/
theorem step_of_txn {w : TxnWord} (hs : s.schedule = .txn w :: rest) (hd : decodeTxn w = .ok i) :
    step s = exec i { s with schedule := rest } := by
  simp [step, State.fetch, State.fetchTxn, hs, hd]

/-- The host's turn refuses a word that is no transaction (assumption log 11). -/
theorem step_of_not_txn {w : TxnWord} {e : TxnError} (hs : s.schedule = .txn w :: rest) (hd : decodeTxn w = .error e) :
    step s = .refused (.notATransaction w) := by
  simp [step, State.fetch, State.fetchTxn, hs, hd]

/-- The engine's turn runs the pending command. -/
theorem step_of_engine {w : Word} (hs : s.schedule = .engine :: rest) (hp : s.pending = some w) :
    step s = exec (decodeCmd w) { s with schedule := rest } := by
  simp [step, State.fetch, State.fetchCommand, hs, hp]

/-- A placed command word is accepted, with the engine's turn next. -/
theorem State.withFetchWord_cmd (s : State) (w : Nat) :
    s.withFetchWord 32 w = { s.accept (BitVec.ofNat 32 w) with schedule := .engine :: s.schedule } := rfl

/-- A placed transaction word is the host's next. -/
theorem State.withFetchWord_txn (s : State) (w : Nat) :
    s.withFetchWord 64 w = { s with schedule := .txn (BitVec.ofNat 64 w) :: s.schedule } := rfl

/-- Settles O4: the excluded words are those that do not decode, and the host's turn refuses such a word. -/
theorem nonTransactionWordIsRefused : Obligations.NonTransactionWordIsRefused := by
  intro s w rest hs h
  obtain ⟨e, hd⟩ := decodeTxn_error_of_nonzero h
  exact step_of_not_txn hs hd

/-- Settles O8: placing accepts the word, and the engine's turn that follows runs it. -/
theorem placedCommandWordRunsNext : Obligations.PlacedCommandWordRunsNext := by
  intro s w i h
  cases (decodeTableWord_cmd w).symm.trans h
  exact step_of_engine (congrArg State.schedule (s.withFetchWord_cmd w)) (congrArg State.pending (s.withFetchWord_cmd w))

/-- Settles O9: placing puts the word at the head of the schedule, from where the host's turn takes it. -/
theorem placedTransactionWordRunsNext : Obligations.PlacedTransactionWordRunsNext := by
  intro s w i h
  exact step_of_txn (congrArg State.schedule (s.withFetchWord_txn w)) (decodeTableWord_txn_eq_some_iff.1 h)

end Sys2Proof.Machine
end

section
/-! SUPPORT. The host's reads and writes of registers and window cells (40_host_bus.md): where a mapped address leads, the word that a
location holds, and what storing in it leaves. -/

namespace Sys2Proof.Machine

open Sys2Proof.Claims

section Locations

variable {c : Config} {a : Addr} {l : Loc} {m : Nat}

@[simp] theorem Reg.toNat_addr (r : Reg) : (Loc.reg r).addr.toNat = r.offset := by cases r <;> rfl

/-- A register's address leads to it in every configuration (10_state.md R18). -/
theorem mapped_reg_addr (c : Config) (r : Reg) : mapped c (Loc.reg r).addr = some (.reg r) := by
  have hlow := r.offset_lt
  have hregion : r.offset / 0x10000 = 0 := by omega
  have hoff : r.offset % 0x10000 = r.offset := by omega
  simp only [mapped, Reg.toNat_addr, hregion, hoff, Reg.ofOffset_offset, if_true, Option.map_some]

theorem misaligned_reg_addr (r : Reg) : misaligned (Loc.reg r).addr = false := by cases r <;> decide

theorem cellAt_isWindow (h : CellAt c m l) : l.isWindow = true := by
  cases l with
  | reg r => exact h.elim
  | _ => rfl

theorem cellAt_locAt (h : CellAt c m l) : LocAt c m l := by
  cases l with
  | reg r => exact h.elim
  | _ => exact h

theorem Loc.isRw_of_isWindow (h : l.isWindow = true) : l.isRw = true := by
  cases l with
  | reg r => cases h
  | _ => rfl

theorem cellAt_aligned (h : CellAt c m l) : m % 4 = 0 := by
  cases l <;> simp only [CellAt] at h <;> omega

/-- The code words of an entry fit behind its header in the entry's 16 words (00_scope.md R6, 20_memory.md R55). -/
theorem Config.codeWords_lt (hc : c.wf) : c.codeWords < 15 := by
  obtain ⟨-, ⟨-, hmax⟩, -⟩ := hc
  unfold Config.codeWords ceilDiv
  omega

theorem cellAt_inBounds (hc : c.wf) (h : CellAt c m l) : l.inBounds c := by
  cases l with
  | reg r => exact h.elim
  | lutWord sym w =>
    obtain ⟨hsym, hw, -⟩ := h
    exact ⟨hsym, hw, hw.trans (Config.codeWords_lt hc)⟩
  | _ => exact h.1

/-- The parts of an address that decoding looks at, for word `k` of region `n` (20_memory.md R49). -/
theorem regionWord_of_toNat {n k : Nat} (ha : a.toNat = 0x10000 * n + 4 * k) (hk : k < 0x4000) :
    a.toNat / 0x10000 = n ∧ a.toNat % 0x10000 / 4 = k := by
  omega

/-- A window cell's address is mapped to it (R49, R55 to R58). -/
theorem mapped_of_cellAt (hc : c.wf) (h : CellAt c a.toNat l) : mapped c a = some l := by
  have halpha := Config.alphabet_le hc
  have hwords := Config.codeWords_lt hc
  obtain ⟨-, -, ⟨-, hsymCap⟩, -, hbyteCap⟩ := hc
  unfold mapped
  cases l with
  | reg r => exact h.elim
  | lutHeader sym =>
    obtain ⟨hsym, ha⟩ := h
    obtain ⟨hregion, hword⟩ := regionWord_of_toNat (a := a) (n := 1) (k := 16 * sym) (by omega) (by omega)
    simp [lutLoc, hregion, hword, hsym]
  | lutWord sym w =>
    obtain ⟨hsym, hw, ha⟩ := h
    obtain ⟨hregion, hword⟩ := regionWord_of_toNat (a := a) (n := 1) (k := 16 * sym + (w + 1)) (by omega) (by omega)
    have hentry : (16 * sym + (w + 1)) / 16 = sym ∧ (16 * sym + (w + 1)) % 16 = w + 1 := by omega
    simp [lutLoc, hregion, hword, hentry, hsym, Nat.succ_le_of_lt hw]
  | rom i =>
    obtain ⟨hi, ha⟩ := h
    have hnodes : c.nodes < 512 := by unfold Config.nodes; omega
    obtain ⟨hregion, hword⟩ := regionWord_of_toNat (n := 2) ha (by omega)
    simp [hregion, hword, hi]
  | symbuf i =>
    obtain ⟨hi, ha⟩ := h
    obtain ⟨hregion, hword⟩ := regionWord_of_toNat (n := 3) ha (by omega)
    simp [hregion, hword, hi]
  | bitbuf i =>
    obtain ⟨hi, ha⟩ := h
    obtain ⟨hregion, hword⟩ := regionWord_of_toNat (n := 4) ha (by omega)
    simp [hregion, hword, hi]

end Locations

section Values

variable {s : State} {l : Loc}

/-- A byte or symbol in a bus word: the bits above it are 0. -/
theorem setWidth_byte (x : BitVec 8) : x.setWidth 32 = (0 : BitVec 24) ++ x := BitVec.setWidth_eq_append (by decide)

theorem setWidth_count (x : BitVec 15) : x.setWidth 32 = (0 : BitVec 17) ++ x := BitVec.setWidth_eq_append (by decide)

theorem setWidth_bitCount (x : BitVec 18) : x.setWidth 32 = (0 : BitVec 14) ++ x := BitVec.setWidth_eq_append (by decide)

@[simp] theorem map_written {α β : Type} (f : α → β) (c : Cell) (o : Option α) : (written c o).map f = written c (o.map f) := by
  cases o <;> rfl

/-- A read of a cell that can be unwritten finds its word, or it is UNINIT_READ of its name (40_host_bus.md R85, R86). -/
theorem State.locValue_eq_written (s : State) {c : Cell} (h : cellName l = some c) : s.locValue l = written c (cellWord s l) := by
  cases l with
  | reg r | lutHeader sym => cases h
  | lutWord sym w => cases h; rfl
  | rom i => cases h; exact map_written ..
  | symbuf i | bitbuf i =>
    cases h
    exact (map_written ..).trans (congrArg (fun f => written _ (Option.map f _)) (funext setWidth_byte))

theorem State.locValue_of_cellWord {v : Word} (h : cellWord s l = some v) : s.locValue l = .ok v := by
  cases l with
  | reg r => cases h
  | lutHeader sym => cases h; rfl
  | _ => exact (s.locValue_eq_written rfl).trans (written_eq_ok.2 h)

theorem State.locValue_of_unwritten (hl : l.isWindow = true) (h : cellWord s l = none) :
    ∃ c, cellName l = some c ∧ s.locValue l = .error (.uninitRead c) := by
  cases l with
  | reg r => cases hl
  | lutHeader sym => cases h
  | _ => exact ⟨_, rfl, (s.locValue_eq_written rfl).trans (written_eq_error.2 ⟨h, rfl⟩)⟩

theorem State.toOption_locValue (hl : l.isWindow = true) : (s.locValue l).toOption = cellWord s l := by
  cases h : cellWord s l with
  | some v => rw [State.locValue_of_cellWord h]; rfl
  | none =>
    obtain ⟨c, -, hv⟩ := State.locValue_of_unwritten hl h
    rw [hv]; rfl

end Values

section StoredFields

/-- A mask over a stretch of a word acts on each part of the stretch. -/
theorem extractLsb'_and_append {n w v : Nat} (d : BitVec n) (i : Nat) (p : BitVec w) (q : BitVec v) :
    d.extractLsb' i (w + v) &&& (p ++ q) = (d.extractLsb' (i + v) w &&& p) ++ (d.extractLsb' i v &&& q) := by
  rw [← BitVec.and_append, BitVec.extractLsb'_append_extractLsb'_eq_extractLsb' rfl]

/-- The bits that a LUT header has (20_memory.md R55). -/
theorem and_headerMask (d : Word) : d &&& 0x800000FF = d.extractLsb' 31 1 ++ (0 : BitVec 23) ++ d.extractLsb' 0 8 :=
  calc d &&& 0x800000FF = d.extractLsb' 0 (1 + 23 + 8) &&& (BitVec.allOnes 1 ++ 0#23 ++ BitVec.allOnes 8) := by
        rw [BitVec.extractLsb'_eq_self]; rfl
    _ = _ := by simp only [extractLsb'_and_append, BitVec.and_allOnes, BitVec.and_zero]; rfl

/-- The bits that a ROM node has (R56). -/
theorem and_nodeMask (d : Word) : d &&& 0x81FF01FF =
    d.extractLsb' 31 1 ++ (0 : BitVec 6) ++ d.extractLsb' 16 9 ++ (0 : BitVec 7) ++ d.extractLsb' 0 9 :=
  calc d &&& 0x81FF01FF = d.extractLsb' 0 (1 + 6 + 9 + 7 + 9) &&&
        (BitVec.allOnes 1 ++ 0#6 ++ BitVec.allOnes 9 ++ 0#7 ++ BitVec.allOnes 9) := by
        rw [BitVec.extractLsb'_eq_self]; rfl
    _ = _ := by simp only [extractLsb'_and_append, BitVec.and_allOnes, BitVec.and_zero]; rfl

/-- The bits that a byte of BITBUF has (R58). -/
theorem and_byteMask (d : Word) : d &&& 0x000000FF = (0 : BitVec 24) ++ d.extractLsb' 0 8 :=
  calc d &&& 0x000000FF = d.extractLsb' 0 (24 + 8) &&& (0#24 ++ BitVec.allOnes 8) := by
        rw [BitVec.extractLsb'_eq_self]; rfl
    _ = _ := by simp only [extractLsb'_and_append, BitVec.and_allOnes, BitVec.and_zero]; rfl

/-- A stored symbol reads as the value cut to SYM_W bits (R57). -/
theorem zero_append_symOf {c : Config} (hc : c.wf) (n : Nat) : (0 : BitVec 24) ++ c.symOf n = BitVec.ofNat 32 (n % 2 ^ c.symW) := by
  have hlt : n % 2 ^ c.symW < 2 ^ 8 := (Nat.mod_lt _ (Nat.two_pow_pos c.symW)).trans_le (Config.alphabet_le hc)
  rw [← setWidth_byte, Config.symOf, Config.alphabet, BitVec.setWidth_ofNat_of_le_of_lt (by decide) hlt]

theorem ofBool_getLsbD {n : Nat} (x : BitVec n) (i : Nat) : BitVec.ofBool (x.getLsbD i) = x.extractLsb' i 1 := by
  ext k hk
  obtain rfl : k = 0 := by omega
  simp

variable {s : State} {l : Loc}

/-- A window cell holds after a write of it the bits that it has of the data (R55 to R58). -/
theorem cellWord_writeLoc_same (hc : s.cfg.wf) (hs : s.lutWf) (hl : l.isWindow = true) (d : Word) :
    cellWord (s.writeLoc d l) l = some (storedWord s.cfg d l) := by
  cases l with
  | reg r => cases hl
  | lutHeader sym =>
    have hheader : (s.writeLoc d (.lutHeader sym)).lutHeader sym = LutHeader.ofWord d :=
      (Memory.readHeader_writeHeader hs.1 sym sym _).trans (if_pos rfl)
    simp only [cellWord, hheader, LutHeader.ofWord, ofBool_getLsbD, storedWord, and_headerMask]
  | lutWord sym w => exact Memory.read_write_same ..
  | rom i =>
    simp only [cellWord, State.writeLoc, Memory.read_write_same, Option.map_some, Node.ofWord, ofBool_getLsbD, storedWord, and_nodeMask]
  | symbuf i =>
    simp only [cellWord, State.writeLoc, Memory.read_write_same, Option.map_some, zero_append_symOf hc, storedWord]
  | bitbuf i =>
    simp only [cellWord, State.writeLoc, Memory.read_write_same, Option.map_some, storedWord, and_byteMask]

/-- Every other window cell holds what it held. -/
theorem cellWord_writeLoc_other {k : Loc} (hs : s.lutWf) (hl : l.inBounds s.cfg) (hk : k.inBounds s.cfg) (hwindow : k.isWindow = true)
    (h : k ≠ l) (d : Word) : cellWord (s.writeLoc d l) k = cellWord s k := by
  rw [← State.toOption_locValue hwindow, ← State.toOption_locValue hwindow, State.locValue_writeLoc hs hl hk h d]

/-- The `err` port is no part of any cell. -/
theorem cellWord_respondWrite (s : State) (l : Loc) : cellWord s.respondWrite l = cellWord s l := by cases l <;> rfl

/-- A write of a window cell changes no register and no flag; this leaves the `rdata` port open. -/
theorem State.respondWrite_writeLoc_cell (hl : l.isWindow = true) (d : Word) :
    (s.writeLoc d l).respondWrite = { s with
      lutHdr := (s.writeLoc d l).lutHdr, lutCode := (s.writeLoc d l).lutCode, rom := (s.writeLoc d l).rom
      symbuf := (s.writeLoc d l).symbuf, bitbuf := (s.writeLoc d l).bitbuf, rdata := (s.writeLoc d l).rdata, err := false } := by
  cases l with
  | reg r => cases hl
  | _ => rfl

end StoredFields

section Transactions

variable {s : State} {a : Addr} {l : Loc} {r : Reg}

theorem execRd_of_value {v : Word} (ht : s.readTarget a = some l) (hv : s.locValue l = .ok v) :
    execRd a s = .next (s.respondRead v) := by
  simp only [execRd, ht, hv]

theorem execRd_of_unwritten {f : Fault} (ht : s.readTarget a = some l) (hv : s.locValue l = .error f) :
    execRd a s = .next (s.uninitHostRead f) := by
  simp only [execRd, ht, hv]

/-- A register is readable whatever the value of BUSY (20_memory.md R52). -/
theorem execRd_reg (s : State) (r : Reg) : execRd (Loc.reg r).addr s = .next (s.respondRead (s.regValue r)) :=
  execRd_of_value (State.readTarget_eq_some.2 ⟨misaligned_reg_addr r, mapped_reg_addr s.cfg r, Bool.and_false _⟩) rfl

theorem State.readTarget_cell (hc : s.cfg.wf) (hidle : s.pending = none) (h : CellAt s.cfg a.toNat l) : s.readTarget a = some l :=
  State.readTarget_eq_some.2
    ⟨misaligned_eq_false_iff.2 (cellAt_aligned h), mapped_of_cellAt hc h, by rw [State.busy_eq_false_iff.2 hidle, Bool.false_and]⟩

theorem State.writeTarget_cell (hc : s.cfg.wf) (hidle : s.pending = none) (h : CellAt s.cfg a.toNat l) : s.writeTarget a = some l :=
  State.writeTarget_eq_some.2
    ⟨misaligned_eq_false_iff.2 (cellAt_aligned h), mapped_of_cellAt hc h, Loc.isRw_of_isWindow (cellAt_isWindow h),
      State.busy_eq_false_iff.2 hidle⟩

theorem State.writeTarget_reg (hidle : s.pending = none) (hr : (Loc.reg r).isRw = true) :
    s.writeTarget (Loc.reg r).addr = some (.reg r) :=
  State.writeTarget_eq_some.2 ⟨misaligned_reg_addr r, mapped_reg_addr s.cfg r, hr, State.busy_eq_false_iff.2 hidle⟩

/-- A register that is not RW is not where a plain write leads. -/
theorem State.writeTarget_ne_offset (ht : s.writeTarget a = some l) (hr : (Loc.reg r).isRw = false) : a.toNat ≠ r.offset := by
  intro ha
  obtain ⟨-, hmapped, hrw, -⟩ := State.writeTarget_eq_some.1 ht
  obtain rfl : a = (Loc.reg r).addr := BitVec.eq_of_toNat_eq (ha.trans r.toNat_addr.symm)
  cases hmapped.symm.trans (mapped_reg_addr s.cfg r)
  exact Bool.noConfusion (hr.symm.trans hrw)

theorem execWr_of_target (ht : s.writeTarget a = some l) (d : Word) : execWr a d s = .next (s.writeLoc d l).respondWrite := by
  have hstatus : a.toNat ≠ Reg.status.offset := State.writeTarget_ne_offset ht rfl
  have hcmd : a.toNat ≠ Reg.cmd.offset := State.writeTarget_ne_offset ht rfl
  simp only [execWr, if_neg hstatus, if_neg hcmd, ht]

theorem execWr_status (s : State) (d : Word) : execWr (Loc.reg .status).addr d s = .next (s.statusWrite d).respondWrite := rfl

end Transactions

section Cells

/-- Settles O17: the address of a cell leads to it, and a cell that holds a word reads as it. -/
theorem rdReturnsTheCell : Obligations.RdReturnsTheCell :=
  fun _ _ _ _ hc hidle hcell hword => execRd_of_value (State.readTarget_cell hc hidle hcell) (State.locValue_of_cellWord hword)

/-- Settles O18: a cell that holds no word is UNINIT_READ, which is recorded where no model fault is. -/
theorem rdOfAnUnwrittenCellFaults : Obligations.RdOfAnUnwrittenCellFaults := by
  intro s a l hc hidle hcell hword
  obtain ⟨c, hname, hv⟩ := State.locValue_of_unwritten (cellAt_isWindow hcell) hword
  have hfault : (s.setModelFault (.uninitRead c)).modelFault = some (s.modelFault.getD (.uninitRead c)) := by
    cases h : s.modelFault <;> simp [h]
  refine ⟨Config.freeRead s.fresh, c, hname, (execRd_of_unwritten (State.readTarget_cell hc hidle hcell) hv).trans ?_⟩
  rw [← hfault]
  rfl

/-- Settles O25: the write stores in the cell at its address, and a cell at another address is another cell. -/
theorem wrStoresOneCell : Obligations.WrStoresOneCell := by
  intro s a l d hc hlut hidle hcell
  refine ⟨_, execWr_of_target (State.writeTarget_cell hc hidle hcell) d, State.respondWrite_writeLoc_cell (cellAt_isWindow hcell) d, ?_,
    fun b k hk hb => ?_⟩
  · rw [cellWord_respondWrite, cellWord_writeLoc_same hc hlut (cellAt_isWindow hcell) d]
  · have hother : k ≠ l := fun hkl => hb (LocAt.addr_unique (hkl ▸ cellAt_locAt hk) (cellAt_locAt hcell))
    rw [cellWord_respondWrite,
      cellWord_writeLoc_other hlut (cellAt_inBounds hc hcell) (cellAt_inBounds hc hk) (cellAt_isWindow hk) hother d]

end Cells

section Registers

/-- Bit `i` of STATUS: each flag at its bit, CAUSE from bit 16 up, and every other bit 0 (40_host_bus.md R84). -/
theorem State.getLsbD_statusValue (s : State) (i : Nat) :
    s.statusValue.getLsbD i =
      if i = 0 then s.busy else if i = 1 then s.done else if i = 2 then s.fail else if i < 8 then false
      else if i = 8 then s.ovr else if i = 9 then s.busErr else if i < 16 then false else s.cause.code.getLsbD (i - 16) := by
  unfold State.statusValue
  repeat rw [BitVec.getLsbD_append]
  simp only [BitVec.getLsbD_ofBool]
  obtain hlow | hsticky | hcause : i < 8 ∨ (8 ≤ i ∧ i < 16) ∨ 16 ≤ i := by omega
  · grind
  · simp (disch := omega) only [if_neg]
    grind
  · simp (disch := omega) only [if_neg]
    grind

/-- Settles O15: a read of STATUS returns its word, and each field of the word is a stretch of its bits. -/
theorem statusReadsItsFlags : Obligations.StatusReadsItsFlags := by
  intro s
  refine ⟨s.statusValue, execRd_reg s .status, s.getLsbD_statusValue 0, s.getLsbD_statusValue 1, s.getLsbD_statusValue 2, ?_,
    s.getLsbD_statusValue 8, s.getLsbD_statusValue 9, ?_, ?_, ?_⟩
  all_goals
    ext i hi
    rw [BitVec.getElem_extractLsb', s.getLsbD_statusValue]
    grind

/-- Settles O16: each register is readable at its address, and a count narrower than the bus word is padded with zeros. -/
theorem rdReturnsTheRegister : Obligations.RdReturnsTheRegister := by
  intro s
  refine ⟨execRd_reg s .id, execRd_reg s .param, execRd_reg s .caps, execRd_reg s .cmd, execRd_reg s .status, execRd_reg s .errInfo,
    ?_, execRd_reg s .encBitlen, execRd_reg s .encBytelen, ?_, ?_, execRd_reg s .decBitsUsed, execRd_reg s .treeCfg⟩
  · rw [← setWidth_count]
    exact execRd_reg s .encNsym
  · rw [← setWidth_count]
    exact execRd_reg s .decNsym
  · rw [← setWidth_bitCount]
    exact execRd_reg s .decNbits

/-- Settles O21: each RW register's address leads a write to it, and storing there takes its fields from the data. -/
theorem wrStoresTheRwRegister : Obligations.WrStoresTheRwRegister := by
  intro s d hidle
  have hwrite : ∀ r : Reg, (Loc.reg r).isRw = true →
      exec (.wr (Loc.reg r).addr d) s = .next (s.writeLoc d (.reg r)).respondWrite :=
    fun r hr => execWr_of_target (State.writeTarget_reg hidle hr) d
  exact ⟨⟨s.rdata, hwrite .encNsym rfl⟩, ⟨s.rdata, hwrite .decNsym rfl⟩, ⟨s.rdata, hwrite .decNbits rfl⟩,
    ⟨s.rdata, hwrite .treeCfg rfl⟩⟩

/-- Settles O22: a STATUS write is taken before any other check, and a bit of it that is 1 clears its flag. -/
theorem wrStatusClearsStickyBits : Obligations.WrStatusClearsStickyBits := by
  intro s d
  have hclear : ∀ flag bit : Bool, (flag && !bit) = if bit then false else flag := by decide
  refine ⟨s.rdata, (execWr_status s d).trans ?_⟩
  rw [← hclear, ← hclear]
  rfl

end Registers

end Sys2Proof.Machine
end

section
/-! SUPPORT. The command protocol (41_command_protocol.md): the transactions while a command is pending (R97, R98), the submission of a command
(R90, R95), the engine's turn (R96, R99), and what every command leaves when it finishes (R101). -/

namespace Sys2Proof.Machine

open Sys2Proof.Claims

section Busy

/-- `t` differs from `s` at most in the ports, the sticky flags, and the model's record of an unwritten cell;
`u` holds what those fields become. -/
def TransactionFrame (s t : State) : Prop :=
  ∃ u : State, t = { s with
    rdata := u.rdata, err := u.err, ovr := u.ovr, busErr := u.busErr, modelFault := u.modelFault, fresh := u.fresh }

variable {s t : State} {a : Addr}

/-- A read changes no more than that, busy or not (20_memory.md R53). -/
theorem exec_rd_transactionFrame (h : exec (.rd a) s = .next t) : TransactionFrame s t := by
  obtain ⟨hframe, -⟩ := rdChangesNoState s t a h
  exact ⟨{ t with ovr := s.ovr, busErr := s.busErr || t.err }, hframe⟩

/-- While BUSY = 1 a write is a STATUS write, an overrun or a bus error: no command is accepted and no location is stored in
(70_reset_and_hazards.md R176). -/
theorem exec_wr_transactionFrame {d : Word} (hbusy : s.busy = true) (h : exec (.wr a d) s = .next t) : TransactionFrame s t := by
  rcases execWr_cases a d s with ⟨-, he⟩ | ⟨-, hidle, -⟩ | ⟨-, -, he⟩ | ⟨-, -, -, he⟩ | ⟨l, -, -, htarget, -⟩
  · cases he.symm.trans h; exact ⟨(s.statusWrite d).respondWrite, rfl⟩
  · exact Bool.noConfusion (hidle.symm.trans hbusy)
  · cases he.symm.trans h; exact ⟨s.overrun.respondWrite, rfl⟩
  · cases he.symm.trans h; exact ⟨s.busErrorWrite, rfl⟩
  · obtain ⟨-, -, -, hidle⟩ := State.writeTarget_eq_some.1 htarget
    exact Bool.noConfusion (hidle.symm.trans hbusy)

/-- Settles O28: a transaction while BUSY = 1 changes no more than the ports, the sticky flags and the record of a model fault. -/
theorem busyTransactionsChangeNoOperand : Obligations.BusyTransactionsChangeNoOperand := by
  intro s t i w hpending hi h
  have hframe : TransactionFrame s t := by
    obtain ⟨a, rfl⟩ | ⟨a, d, rfl⟩ := hi
    · exact exec_rd_transactionFrame h
    · exact exec_wr_transactionFrame (by simp [State.busy, hpending]) h
  obtain ⟨u, rfl⟩ := hframe
  exact ⟨⟨rfl, rfl, rfl, rfl, rfl, rfl, rfl, rfl, rfl, rfl, rfl⟩, hpending, rfl, rfl, rfl, rfl, rfl, rfl, rfl⟩

end Busy

section Submission

variable {s : State}

/-- A CMD write is never a bus error: it submits its word whatever the value of BUSY (R90). -/
theorem execWr_cmd (s : State) (w : Word) : execWr (Loc.reg .cmd).addr w s = .next (s.submit w).respondWrite := rfl

theorem State.submit_of_idle (h : s.pending = none) (w : Word) : s.submit w = s.accept w := by
  simp [State.submit, State.busy, h]

theorem State.submit_of_busy {p : Word} (h : s.pending = some p) (w : Word) : s.submit w = s.overrun := by
  simp [State.submit, State.busy, h]

/-- Settles O23: an idle block accepts the word, and a write leaves the rdata port as it was (assumption log 5). -/
theorem wrCmdIsAccepted : Obligations.WrCmdIsAccepted := by
  intro s w hidle
  refine ⟨s.rdata, (execWr_cmd s w).trans ?_⟩
  rw [State.submit_of_idle hidle]
  rfl

/-- Settles O24: a busy block overruns, and a write leaves the rdata port as it was (assumption log 5). -/
theorem wrCmdWhileBusyIsLost : Obligations.WrCmdWhileBusyIsLost := by
  intro s w p hbusy
  refine ⟨s.rdata, (execWr_cmd s w).trans ?_⟩
  rw [State.submit_of_busy hbusy]
  rfl

end Submission

section EngineTurn

/-- With nothing scheduled the step runs the pending command (R99; assumption log 2). -/
theorem step_of_unscheduled {s : State} {w : Word} (hs : s.schedule = []) (hp : s.pending = some w) :
    step s = exec (decodeCmd w) s := by
  simp [step, State.fetch, State.fetchCommand, hs, hp]

/-- Settles O6: every command word decodes, and the engine's turn and the empty schedule run what it decodes to. -/
theorem stepRunsPendingCommand : Obligations.StepRunsPendingCommand := by
  intro s w i hpending hdecode
  cases hdecode
  exact ⟨fun rest hs => step_of_engine hs hpending, fun hs => step_of_unscheduled hs hpending⟩

end EngineTurn

section ControlCommands

theorem Memory.readHeader_cons (j : Nat) (h : LutHeader) (m : Memory LutHeader) (k : Nat) :
    Memory.readHeader ((j, h) :: m) k = if j = k then h else Memory.readHeader m k := by
  unfold Memory.readHeader
  rw [Memory.read]
  split_ifs <;> rfl

/-- CLEAR_LUT's operation on the headers, symbol by symbol: V becomes 0 and LEN stays (R103). A list that names a symbol twice would
uncover its second header where the first has LEN = 0, so the canonical form is needed. -/
theorem Memory.readHeader_clearV {m : Memory LutHeader} (hm : Memory.wf m) (k : Nat) :
    Memory.readHeader (Memory.clearV m) k = { v := false, len := (Memory.readHeader m k).len } := by
  induction m with
  | nil => rfl
  | cons p m ih =>
    obtain ⟨j, h⟩ := p
    obtain ⟨hbelow, hm⟩ := List.pairwise_cons.1 hm
    rw [Memory.clearV, Memory.readHeader_cons]
    by_cases hlen : h.len = 0
    · have hunlisted : Memory.read (Memory.clearV m) j = none := by
        refine Memory.read_eq_none_of_lt fun q hq => ?_
        obtain ⟨-, -, hdr, hmem, -⟩ := Memory.mem_clearV hq
        exact hbelow (q.1, hdr) hmem
      rw [if_pos hlen]
      split_ifs with hj
      · rw [← hj, hlen, Memory.readHeader, hunlisted]
        rfl
      · exact ih hm
    · rw [if_neg hlen, Memory.readHeader_cons]
      split_ifs
      · rfl
      · exact ih hm

/-- Settles O31: the LUT's canonical form makes clearing the listed headers clear every header. -/
theorem clearLutClearsEveryValidBit : Obligations.ClearLutClearsEveryValidBit := by
  intro s hlut
  obtain ⟨hhdr, -⟩ := hlut
  exact ⟨_, rfl, rfl, fun sym => Memory.readHeader_clearV hhdr sym⟩

/-- Settles O29: NOP is `succeed`, which writes the record of completion and empties `pending` (R101). -/
theorem nopSucceeds : Obligations.NopSucceeds := fun _ => rfl

/-- Settles O30: a reserved command is `raise BAD_CMD`, which writes the record of completion and empties `pending` (R101). -/
theorem reservedCommandFails : Obligations.ReservedCommandFails := fun _ _ => rfl

end ControlCommands

section Completion

/-- `t` is `s` with its command finished: recorded as done unless a model fault is set, and with no change but of `pending`, the record of
completion, the result registers, the LUT headers, the buffers and the record of a model fault (R96, R101); `u` holds what those fields become. -/
def FinishesCommand (s t : State) : Prop :=
  (t.faultFree → t.done = true) ∧
  ∃ u : State, t = { s with
    pending := none, done := u.done, fail := u.fail, cause := u.cause, errInfo := u.errInfo,
    encBitlen := u.encBitlen, encBytelen := u.encBytelen, decBitsUsed := u.decBitsUsed,
    lutHdr := u.lutHdr, symbuf := u.symbuf, bitbuf := u.bitbuf, modelFault := u.modelFault, fresh := u.fresh }

variable {s t : State}

theorem execEncode_finishes (h : execEncode s = .next t) : FinishesCommand s t := by
  rcases execEncode_cases s with ⟨r, -, he⟩ | ⟨c, info, -, he⟩ | ⟨f, -, he⟩ <;> cases he.symm.trans h
  · exact ⟨fun _ => rfl, s.commitEncode r, rfl⟩
  · exact ⟨fun _ => rfl, s.failEncode c info, rfl⟩
  · exact ⟨fun hfree => absurd hfree (s.not_faultFree_setModelFault f), s.faultEncode f, rfl⟩

theorem execDecode_finishes (h : execDecode s = .next t) : FinishesCommand s t := by
  rcases execDecode_cases s with ⟨r, -, he⟩ | ⟨c, info, -, he⟩ | ⟨f, -, he⟩ <;> cases he.symm.trans h
  · exact ⟨fun _ => rfl, s.commitDecode r, rfl⟩
  · exact ⟨fun _ => rfl, s.failDecode c info, rfl⟩
  · exact ⟨fun hfree => absurd hfree (s.not_faultFree_setModelFault f), s.faultDecode f, rfl⟩

/-- Every instruction whose code is a command word finishes its command. -/
theorem exec_finishes {i : Instr} {w : Word} (hi : encode i = .cmd w) (h : exec i s = .next t) : FinishesCommand s t := by
  cases i with
  | nop => cases h; exact ⟨fun _ => rfl, s.succeed, rfl⟩
  | encode => exact execEncode_finishes h
  | decode => exact execDecode_finishes h
  | clearLut => cases h; exact ⟨fun _ => rfl, { s with lutHdr := Memory.clearV s.lutHdr }.succeed, rfl⟩
  | badCmd v => cases h; exact ⟨fun _ => rfl, s.raise .badCmd v, rfl⟩
  | rd a => cases hi
  | wr a d => cases hi

/-- Settles O32: what a command word decodes to answers a next state, and is a command, which finishes. -/
theorem engineStepFinishesTheCommand : Obligations.EngineStepFinishesTheCommand := by
  intro s w
  obtain ⟨t, ht⟩ := exec_next (decodeCmd w) s
  obtain ⟨hdone, u, rfl⟩ := exec_finishes (decodeCmd_wf_encode w).2 ht
  exact ⟨_, ht, rfl, hdone, rfl, rfl, rfl, rfl, rfl, rfl, rfl, rfl, rfl, rfl, rfl, rfl⟩

end Completion

end Sys2Proof.Machine
end

section
/-! SUPPORT. The frequency counter (42_table_compiler.md R106): each symbol of the sequence is listed once, with its count. -/

namespace Sys2Proof.Machine

open Sys2Proof.Claims

section Frequencies

variable {seq : List Nat}

theorem countFrequencies_concat (seq : List Nat) (x : Nat) :
    countFrequencies (seq ++ [x]) =
      Memory.write (countFrequencies seq) x ((Memory.read (countFrequencies seq) x).getD 0 + 1) := by
  simp [countFrequencies]

theorem countFrequencies_wf (seq : List Nat) : Memory.wf (countFrequencies seq) := by
  induction seq using List.reverseRecOn with
  | nil => exact List.Pairwise.nil
  | append_singleton seq x ih => rw [countFrequencies_concat]; exact Memory.write_wf ih x _

theorem read_countFrequencies (seq : List Nat) (x : Nat) :
    Memory.read (countFrequencies seq) x = if x ∈ seq then some (seq.count x) else none := by
  induction seq using List.reverseRecOn with
  | nil => rfl
  | append_singleton seq y ih =>
    rw [countFrequencies_concat, Memory.read_write]
    by_cases hxy : x = y
    · subst hxy
      rw [ih]
      by_cases hx : x ∈ seq <;> simp [hx, List.count_eq_zero_of_not_mem]
    · have hcount : [y].count x = 0 := List.count_eq_zero_of_not_mem (by simpa using hxy)
      simp [hxy, ih, List.count_append, hcount]

/-- What the table lists: the symbols of the sequence, each with its count (R106). -/
theorem mem_countFrequencies_iff {p : Nat × Nat} : p ∈ countFrequencies seq ↔ p.1 ∈ seq ∧ p.2 = seq.count p.1 := by
  obtain ⟨x, n⟩ := p
  have hread : (x, n) ∈ countFrequencies seq ↔ Memory.read (countFrequencies seq) x = some n :=
    ⟨Memory.read_of_mem (countFrequencies_wf seq), Memory.mem_of_read⟩
  rw [hread, read_countFrequencies]
  by_cases hx : x ∈ seq <;> simp [hx, eq_comm]

theorem mem_keys_countFrequencies_iff {x : Nat} : x ∈ (countFrequencies seq).map Prod.fst ↔ x ∈ seq := by
  simp [mem_countFrequencies_iff]

theorem nodup_keys_countFrequencies (seq : List Nat) : ((countFrequencies seq).map Prod.fst).Nodup :=
  (List.pairwise_map.2 (countFrequencies_wf seq)).imp Nat.ne_of_lt

theorem countFrequencies_replicate (x : Nat) {n : Nat} (hn : 1 ≤ n) : countFrequencies (List.replicate n x) = [(x, n)] := by
  induction n, hn using Nat.le_induction with
  | base => rfl
  | succ n _ ih => rw [List.replicate_succ', countFrequencies_concat, ih]; simp [Memory.read, Memory.write]

end Frequencies

section Malformed

variable {c : Config} {table : List (Int × Int)}

theorem compileFreq_of_count (h : ∃ p ∈ table, p.2 ≤ 0) : compileFreq c table = .error .invalidCount :=
  if_pos (by simpa using h)

theorem compileFreq_of_counts_pos (h : ∀ p ∈ table, 0 < p.2) :
    compileFreq c table =
      if table.any (fun p => p.1 < 0 || (c.alphabet : Int) ≤ p.1) then .error .invalidSymbol
      else compileTable c (table.map fun p => (p.1.toNat, p.2.toNat)) :=
  if_neg (by simpa using h)

theorem compileFreq_of_symbol (hcount : ∀ p ∈ table, 0 < p.2) (h : ∃ p ∈ table, p.1 < 0 ∨ (c.alphabet : Int) ≤ p.1) :
    compileFreq c table = .error .invalidSymbol := by
  rw [compileFreq_of_counts_pos hcount]
  exact if_pos (by simpa using h)

/-- A well-formed table is compiled as it is. -/
theorem compileFreq_of_wellFormed {table : List (Nat × Nat)} (h : ∀ p ∈ table, p.1 < c.alphabet ∧ 0 < p.2) :
    compileFreq c (table.map fun p => ((p.1 : Int), (p.2 : Int))) = compileTable c table := by
  have hcount : ∀ q ∈ table.map (fun p => ((p.1 : Int), (p.2 : Int))), 0 < q.2 :=
    List.forall_mem_map.2 fun p hp => Int.natCast_pos.2 (h p hp).2
  rw [compileFreq_of_counts_pos hcount, if_neg (by simpa using fun a b hab => (h (a, b) hab).1)]
  simp [Function.comp_def]

/-- Settles O54: the counts are checked before the symbols, and a counted table holds positive counts of symbols of the alphabet. -/
theorem compileRejectsMalformedTables : Obligations.CompileRejectsMalformedTables := by
  intro c table
  refine ⟨compileFreq_of_count, compileFreq_of_symbol, fun seq hseq => compileFreq_of_wellFormed fun p hp => ?_⟩
  obtain ⟨hmem, hcount⟩ := mem_countFrequencies_iff.1 hp
  exact ⟨hseq _ hmem, hcount ▸ List.count_pos_iff.2 hmem⟩

end Malformed

end Sys2Proof.Machine
end

section
/-! SUPPORT. The code tree and its codes (42_table_compiler.md R108 to R114): the merges keep the leaves of the pool, a leaf's code is its path
from the root, and no path leads through another leaf. -/

namespace Sys2Proof.Machine

open Sys2Proof.Claims

section Tree

/-- The symbols of a tree's leaves, in the order of the traversal (R113). -/
def CodeTree.symbols : CodeTree → List Nat
  | .leaf x _ => [x]
  | .node z o _ => z.symbols ++ o.symbols

/-- The symbols of the leaves of a pool's trees. -/
def poolSymbols (pool : List PoolEntry) : List Nat := pool.flatMap fun e => e.tree.symbols

@[simp] theorem poolSymbols_nil : poolSymbols [] = [] := rfl

@[simp] theorem poolSymbols_cons (e : PoolEntry) (pool : List PoolEntry) :
    poolSymbols (e :: pool) = e.tree.symbols ++ poolSymbols pool := rfl

theorem CodeTree.symbols_length_pos (t : CodeTree) : 0 < t.symbols.length := by
  induction t with
  | leaf x f => exact Nat.one_pos
  | node z o f ihz iho => rw [CodeTree.symbols, List.length_append]; omega

theorem insertEntry_perm (e : PoolEntry) (pool : List PoolEntry) : (insertEntry e pool).Perm (e :: pool) := by
  induction pool with
  | nil => exact .refl _
  | cons f pool ih =>
    rw [insertEntry]
    split_ifs
    · exact .refl _
    · exact (ih.cons f).trans (.swap e f pool)

theorem poolSymbols_insertEntry_perm (e : PoolEntry) (pool : List PoolEntry) :
    (poolSymbols (insertEntry e pool)).Perm (e.tree.symbols ++ poolSymbols pool) :=
  (insertEntry_perm e pool).flatMap_right _

theorem leafPool_length (table : List (Nat × Nat)) : (leafPool table).length = table.length := by
  induction table with
  | nil => rfl
  | cons p table ih => exact (insertEntry_perm _ (leafPool table)).length_eq.trans (congrArg Nat.succ ih)

theorem poolSymbols_leafPool_perm (table : List (Nat × Nat)) : (poolSymbols (leafPool table)).Perm (table.map Prod.fst) := by
  induction table with
  | nil => exact .refl _
  | cons p table ih => exact (poolSymbols_insertEntry_perm _ (leafPool table)).trans (ih.cons p.1)

/-- The entry that a merge puts into the pool (R108 to R110). -/
def mergedEntry (alphabet k : Nat) (a b : PoolEntry) : PoolEntry where
  ord := alphabet + k
  tree := .node a.tree b.tree (a.tree.freq + b.tree.freq)

theorem mergeLoop_merge (alphabet bound k : Nat) (a b : PoolEntry) (pool : List PoolEntry) :
    mergeLoop alphabet (bound + 1) k (a :: b :: pool) = mergeLoop alphabet bound (k + 1) (insertEntry (mergedEntry alphabet k a b) pool) := rfl

/-- The merge loop ends in one tree, whose leaves are those of the pool: a merge takes two trees out and puts one with the leaves of both in. -/
theorem mergeLoop_symbols_perm {alphabet bound k : Nat} {pool : List PoolEntry} (hne : pool ≠ []) (hbound : pool.length ≤ bound + 1) :
    ∃ t, mergeLoop alphabet bound k pool = some t ∧ t.symbols.Perm (poolSymbols pool) := by
  induction bound generalizing k pool with
  | zero =>
    obtain ⟨e, rfl⟩ : ∃ e, pool = [e] := List.length_eq_one_iff.1 (Nat.le_antisymm hbound (List.length_pos_iff.2 hne))
    exact ⟨e.tree, rfl, by simp⟩
  | succ bound ih =>
    match pool, hne with
    | [e], _ => exact ⟨e.tree, rfl, by simp⟩
    | a :: b :: pool, _ =>
      have hlen : (insertEntry (mergedEntry alphabet k a b) pool).length = pool.length + 1 := (insertEntry_perm _ pool).length_eq
      obtain ⟨t, ht, hsymbols⟩ := ih (k := k + 1) (List.ne_nil_of_length_eq_add_one hlen) (hlen ▸ Nat.le_of_succ_le_succ hbound)
      refine ⟨t, by rw [mergeLoop_merge, ht], hsymbols.trans ?_⟩
      simpa [mergedEntry, CodeTree.symbols] using poolSymbols_insertEntry_perm (mergedEntry alphabet k a b) pool

/-- A table with an entry gives a tree with one leaf for each of its symbols (R108). -/
theorem buildTree_symbols_perm (c : Config) {table : List (Nat × Nat)} (h : table ≠ []) :
    ∃ t, buildTree c table = some t ∧ t.symbols.Perm (table.map Prod.fst) := by
  have hlen := leafPool_length table
  obtain ⟨t, ht, hsymbols⟩ := mergeLoop_symbols_perm (alphabet := c.alphabet) (bound := table.length) (k := 0) (pool := leafPool table)
    (List.ne_nil_of_length_pos (hlen ▸ List.length_pos_iff.2 h)) (by omega)
  exact ⟨t, ht, hsymbols.trans (poolSymbols_leafPool_perm table)⟩

end Tree

section Codes

/-- A path that starts lower in the tree is the path from there, behind the bits that lead there. -/
theorem CodeTree.paths_eq_map (t : CodeTree) (path : List Bool) :
    t.paths path = (t.paths []).map fun p => (p.1, path ++ p.2) := by
  induction t generalizing path with
  | leaf x f => simp [CodeTree.paths]
  | node z o f ihz iho =>
    rw [CodeTree.paths, CodeTree.paths, ihz, iho, ihz ([] ++ [false]), iho ([] ++ [true])]
    simp [Function.comp_def]

theorem CodeTree.mem_paths_leaf_iff {x f : Nat} {p : Nat × List Bool} : p ∈ (CodeTree.leaf x f).paths [] ↔ p = (x, []) :=
  List.mem_singleton

/-- A node's paths are its zero-branch's behind a 0 and its one-branch's behind a 1 (R113). -/
theorem CodeTree.mem_paths_node_iff {z o : CodeTree} {f : Nat} {p : Nat × List Bool} :
    p ∈ (CodeTree.node z o f).paths [] ↔
      (∃ q ∈ z.paths [], p = (q.1, false :: q.2)) ∨ ∃ q ∈ o.paths [], p = (q.1, true :: q.2) := by
  rw [CodeTree.paths, CodeTree.paths_eq_map z, CodeTree.paths_eq_map o]
  simp [eq_comm]

theorem CodeTree.map_fst_paths (t : CodeTree) (path : List Bool) : (t.paths path).map Prod.fst = t.symbols := by
  induction t generalizing path with
  | leaf x f => rfl
  | node z o f ihz iho => rw [CodeTree.paths, List.map_append, ihz, iho, CodeTree.symbols]

theorem CodeTree.length_lt_of_mem_paths {t : CodeTree} {p : Nat × List Bool} (h : p ∈ t.paths []) : p.2.length < t.symbols.length := by
  induction t generalizing p with
  | leaf x f => rw [CodeTree.mem_paths_leaf_iff.1 h]; exact Nat.one_pos
  | node z o f ihz iho =>
    have hz := z.symbols_length_pos
    have ho := o.symbols_length_pos
    rw [CodeTree.symbols, List.length_append]
    rcases CodeTree.mem_paths_node_iff.1 h with ⟨q, hq, rfl⟩ | ⟨q, hq, rfl⟩
    · have := ihz hq
      simp only [List.length_cons]; omega
    · have := iho hq
      simp only [List.length_cons]; omega

/-- A path that another one begins with is that path: the walk along it ends at a leaf, where nothing goes on. -/
theorem CodeTree.eq_of_paths_prefix {t : CodeTree} {p q : Nat × List Bool} (hp : p ∈ t.paths []) (hq : q ∈ t.paths [])
    (h : p.2 <+: q.2) : p = q := by
  induction t generalizing p q with
  | leaf x f => rw [CodeTree.mem_paths_leaf_iff.1 hp, CodeTree.mem_paths_leaf_iff.1 hq]
  | node z o f ihz iho =>
    rcases CodeTree.mem_paths_node_iff.1 hp with ⟨p', hp', rfl⟩ | ⟨p', hp', rfl⟩ <;>
      rcases CodeTree.mem_paths_node_iff.1 hq with ⟨q', hq', rfl⟩ | ⟨q', hq', rfl⟩ <;>
      obtain ⟨hbit, htail⟩ := List.cons_prefix_cons.1 h
    · rw [ihz hp' hq' htail]
    · cases hbit
    · cases hbit
    · rw [iho hp' hq' htail]

theorem map_fst_generateCodes (t : CodeTree) : (generateCodes (some t)).map Prod.fst = t.symbols := by
  cases t with
  | leaf x f => rfl
  | node z o f => exact CodeTree.map_fst_paths _ _

/-- A code has at least one bit, and fewer than the tree has leaves where it has two or more of them (R108, R114). -/
theorem generateCodes_length {t : CodeTree} {p : Nat × List Bool} (h : p ∈ generateCodes (some t)) :
    1 ≤ p.2.length ∧ p.2.length ≤ max 1 (t.symbols.length - 1) := by
  cases t with
  | leaf x f => rw [List.mem_singleton.1 h]; exact ⟨Nat.le_refl _, Nat.le_max_left ..⟩
  | node z o f =>
    have hlt := CodeTree.length_lt_of_mem_paths h
    have hpos : 1 ≤ p.2.length := by
      rcases (CodeTree.mem_paths_node_iff (f := f)).1 h with ⟨q, -, rfl⟩ | ⟨q, -, rfl⟩ <;> exact Nat.le_add_left 1 q.2.length
    omega

theorem eq_of_generateCodes_prefix {tree : Option CodeTree} {p q : Nat × List Bool} (hp : p ∈ generateCodes tree) (hq : q ∈ generateCodes tree)
    (h : p.2 <+: q.2) : p = q := by
  match tree with
  | none => cases hp
  | some (.leaf x f) => rw [List.mem_singleton.1 hp, List.mem_singleton.1 hq]
  | some (.node z o f) => exact CodeTree.eq_of_paths_prefix hp hq h

end Codes

section CompiledCodes

variable {c : Config} {seq : List Nat}

/-- Settles O56: the walk along a code ends at a leaf, so a code that begins with it is the same code of the same symbol. -/
theorem compiledCodesArePrefixFree : Obligations.CompiledCodesArePrefixFree :=
  fun _ _ _ _ hp _ hq hne hprefix => hne (congrArg Prod.fst (eq_of_generateCodes_prefix hp hq hprefix))

theorem countFrequencies_ne_nil (h : seq ≠ []) : countFrequencies seq ≠ [] := by
  obtain ⟨x, hx⟩ := List.exists_mem_of_ne_nil seq h
  exact List.ne_nil_of_mem (mem_countFrequencies_iff.2 ⟨hx, rfl⟩ : (x, seq.count x) ∈ countFrequencies seq)

/-- The symbols of the compiled codes are those of the counted table. -/
theorem map_fst_compiledCodes_perm (c : Config) (seq : List Nat) :
    ((compiledCodes c seq).map Prod.fst).Perm ((countFrequencies seq).map Prod.fst) := by
  rcases eq_or_ne seq [] with rfl | hne
  · exact .refl _
  · obtain ⟨t, ht, hsymbols⟩ := buildTree_symbols_perm c (countFrequencies_ne_nil hne)
    rwa [compiledCodes, ht, map_fst_generateCodes]

theorem nodup_keys_compiledCodes (c : Config) (seq : List Nat) : ((compiledCodes c seq).map Prod.fst).Nodup :=
  (map_fst_compiledCodes_perm c seq).nodup_iff.2 (nodup_keys_countFrequencies seq)

theorem mem_keys_compiledCodes_iff {x : Nat} : x ∈ (compiledCodes c seq).map Prod.fst ↔ x ∈ seq :=
  (map_fst_compiledCodes_perm c seq).mem_iff.trans mem_keys_countFrequencies_iff

/-- A sequence has no more distinct symbols than the alphabet. -/
theorem countFrequencies_length_le (h : InAlphabet c seq) : (countFrequencies seq).length ≤ c.alphabet := by
  have hsub : (countFrequencies seq).map Prod.fst ⊆ List.range c.alphabet :=
    fun x hx => List.mem_range.2 (h x (mem_keys_countFrequencies_iff.1 hx))
  simpa using ((nodup_keys_countFrequencies seq).subperm hsub).length_le

/-- The tree of a sequence with a symbol: its leaves are the symbols that occur, and no more than the alphabet has. -/
theorem buildTree_countFrequencies (hne : seq ≠ []) (h : InAlphabet c seq) :
    ∃ t, buildTree c (countFrequencies seq) = some t ∧ (∀ x, x ∈ t.symbols ↔ x ∈ seq) ∧ t.symbols.length ≤ c.alphabet := by
  obtain ⟨t, ht, hsymbols⟩ := buildTree_symbols_perm c (countFrequencies_ne_nil hne)
  refine ⟨t, ht, fun x => hsymbols.mem_iff.trans mem_keys_countFrequencies_iff, ?_⟩
  simpa [hsymbols.length_eq] using countFrequencies_length_le h

theorem compiledCodes_length (hc : c.wf) (h : InAlphabet c seq) {p : Nat × List Bool} (hp : p ∈ compiledCodes c seq) :
    1 ≤ p.2.length ∧ p.2.length ≤ c.alphabet - 1 := by
  have hne : seq ≠ [] := List.ne_nil_of_mem (mem_keys_compiledCodes_iff.1 (List.mem_map_of_mem hp))
  obtain ⟨t, ht, -, hsize⟩ := buildTree_countFrequencies hne h
  rw [compiledCodes, ht] at hp
  have halphabet : 2 ^ 1 ≤ c.alphabet := Nat.pow_le_pow_right Nat.two_pos hc.1.1
  have hlen := generateCodes_length hp
  omega

/-- `compile` fails where a code is longer than MAX_LEN (R118), and gives the images of the tree otherwise. -/
theorem compile_eq_ok_iff {im : Images} :
    compile c seq = .ok im ↔
      (∀ p ∈ compiledCodes c seq, p.2.length ≤ c.maxLen) ∧ im = imagesOf c (buildTree c (countFrequencies seq)) := by
  have hlong : (generateCodes (buildTree c (countFrequencies seq))).any (fun p => c.maxLen < p.2.length) = true ↔
      ¬ ∀ p ∈ compiledCodes c seq, p.2.length ≤ c.maxLen := by
    simp [compiledCodes]
  rw [compile, compileTable]
  by_cases hfit : ∀ p ∈ compiledCodes c seq, p.2.length ≤ c.maxLen
  · rw [if_neg (mt hlong.1 (not_not_intro hfit))]
    exact ⟨fun h => ⟨hfit, (Except.ok.inj h).symm⟩, fun h => h.2 ▸ rfl⟩
  · rw [if_pos (hlong.2 hfit)]
    exact ⟨nofun, fun h => absurd h.1 hfit⟩

/-- Settles O55: the leaves of the tree are the symbols that occur, at a depth below their number. -/
theorem compiledCodesCoverTheSequence : Obligations.CompiledCodesCoverTheSequence := by
  intro c seq hc _ hseq
  have hlen := fun p hp => compiledCodes_length hc hseq (p := p) hp
  exact ⟨nodup_keys_compiledCodes c seq, fun x => mem_keys_compiledCodes_iff, hlen,
    fun hmax => ⟨_, compile_eq_ok_iff.2 ⟨fun p hp => (hlen p hp).2.trans hmax, rfl⟩⟩⟩

theorem buildTree_replicate (c : Config) (x : Nat) {n : Nat} (hn : 1 ≤ n) :
    buildTree c (countFrequencies (List.replicate n x)) = some (.leaf x n) := by
  rw [countFrequencies_replicate x hn]; rfl

/-- Settles O53: the empty table gives no tree, and a table of one symbol its leaf, whose code has one bit. -/
theorem compileOfDegenerateSequences : Obligations.CompileOfDegenerateSequences := by
  intro c hc
  refine ⟨⟨imagesOf c none, compile_eq_ok_iff.2 ⟨fun p hp => absurd hp List.not_mem_nil, rfl⟩, ?_, rfl, rfl⟩, fun x n _ hn => ?_⟩
  · exact List.forall_mem_map.2 fun x _ => ⟨rfl, rfl⟩
  · have htree := buildTree_replicate c x hn
    have hcodes : compiledCodes c (List.replicate n x) = [(x, [false])] := by rw [compiledCodes, htree]; rfl
    refine ⟨hcodes, _, compile_eq_ok_iff.2 ⟨?_, rfl⟩, ?_, ?_⟩
    · rw [hcodes]; exact List.forall_mem_singleton.2 hc.2.1.1
    · rw [htree]; rfl
    · rw [htree]; rfl

end CompiledCodes

end Sys2Proof.Machine
end

section
/-! SUPPORT. The images of the table compiler (42_table_compiler.md R115 to R117): what the words of the LUT image hold of the codes, and the
tree that the ROM image stores. -/

namespace Sys2Proof.Machine

open Sys2Proof.Claims

section MarkedWords

/-- A word with bit 31 set and a number below it: a header with V = 1, or a leaf's ROM word (R115, R116). -/
theorem getLsbD_markedWord (n : Nat) : (0x80000000 ||| BitVec.ofNat 32 n : Word).getLsbD 31 = true := by
  rw [BitVec.getLsbD_or]; rfl

theorem extractLsb'_markedWord (n : Nat) {w : Nat} (hw : w ≤ 31) :
    (0x80000000 ||| BitVec.ofNat 32 n : Word).extractLsb' 0 w = BitVec.ofNat w n := by
  have hmark : (0x80000000 : Word) = BitVec.twoPow 32 31 := rfl
  apply BitVec.eq_of_getLsbD_eq
  intro i hi
  have h31 : i ≠ 31 := by omega
  have h32 : i < 32 := by omega
  rw [hmark, BitVec.getLsbD_extractLsb', BitVec.getLsbD_or, BitVec.getLsbD_twoPow, BitVec.getLsbD_ofNat, BitVec.getLsbD_ofNat]
  simp [hi, h31.symm, h32]

end MarkedWords

section LutImage

theorem testBit_leftBits (code : List Bool) (w : Nat) {n i : Nat} (hi : i < n) :
    (leftBits code w n).testBit i = code.getD (32 * w + (n - 1 - i)) false := by
  induction n generalizing i with
  | zero => cases hi
  | succ n ih =>
    have hbit : leftBits code w (n + 1) = Nat.bit (code.getD (32 * w + n) false) (leftBits code w n) := by
      rw [leftBits, Nat.bit_val]
    cases i with
    | zero => rw [hbit, Nat.testBit_bit_zero]; rfl
    | succ i =>
      rw [hbit, Nat.testBit_bit_succ, ih (by omega)]
      congr 2; omega

/-- Bit `j` of a code is bit `31 - (j mod 32)` of its code word `j div 32` (R116, 30_encoding.md R68). -/
theorem getLsbD_leftWord (code : List Bool) (j : Nat) : (leftWord code (j / 32)).getLsbD (31 - j % 32) = code.getD j false := by
  have hlt : 31 - j % 32 < 32 := by omega
  have hj : 32 * (j / 32) + (32 - 1 - (31 - j % 32)) = j := by omega
  simp only [leftWord, BitVec.getLsbD_ofNat, hlt, decide_true, Bool.true_and, testBit_leftBits code (j / 32) hlt, hj]

theorem codeWordsOf_getElem? {code : List Bool} {j : Nat} (hj : j < code.length) :
    j / 32 < (codeWordsOf code).length ∧ (codeWordsOf code)[j / 32]? = some (leftWord code (j / 32)) := by
  have hlt : j / 32 < ceilDiv code.length 32 := by unfold ceilDiv; omega
  simp [codeWordsOf, hlt]

/-- The code that a table with one code a symbol gives a symbol. -/
theorem codeFor_of_mem {codes : List (Nat × List Bool)} (hnodup : (codes.map Prod.fst).Nodup) {p : Nat × List Bool} (hp : p ∈ codes) :
    codeFor codes p.1 = some p.2 := by
  induction codes with
  | nil => cases hp
  | cons q codes ih =>
    obtain ⟨hq, htail⟩ := List.nodup_cons.1 hnodup
    rcases List.mem_cons.1 hp with rfl | hp
    · simp [codeFor]
    · have hne : q.1 ≠ p.1 := fun h => hq (h ▸ List.mem_map_of_mem hp)
      simpa [codeFor, hne] using ih htail hp

theorem codeFor_of_not_mem {codes : List (Nat × List Bool)} {x : Nat} (h : x ∉ codes.map Prod.fst) : codeFor codes x = none := by
  have hne : ∀ p ∈ codes, ¬(p.1 == x) = true := fun p hp he => h (eq_of_beq he ▸ List.mem_map_of_mem hp)
  rw [codeFor, List.find?_eq_none.2 hne, Option.map_none]

theorem headerWord_valid (len : Nat) : (LutHeader.ofWord (headerWord len)).v = true := getLsbD_markedWord len

theorem zeroHeader_invalid : (LutHeader.ofWord 0).v = false := by decide

theorem headerWord_len {len : Nat} (h : len ≤ 255) : (LutHeader.ofWord (headerWord len)).len.toNat = len := by
  have hlen : (LutHeader.ofWord (headerWord len)).len = BitVec.ofNat 8 len := extractLsb'_markedWord len (by decide)
  rw [hlen, BitVec.toNat_ofNat, Nat.mod_eq_of_lt (by omega)]

variable {s : State} {seq : List Nat} {im : Images}

theorem lutEntry_mem_lut (him : compile s.cfg seq = .ok im) {x : Nat} (hx : x < s.cfg.alphabet) :
    lutEntry (compiledCodes s.cfg seq) x ∈ im.lut := by
  obtain ⟨-, rfl⟩ := compile_eq_ok_iff.1 him
  exact List.mem_map_of_mem (List.mem_range.2 hx)

theorem lutEntry_of_code {codes : List (Nat × List Bool)} {x : Nat} {code : List Bool} (h : codeFor codes x = some code) :
    lutEntry codes x = { sym := x, header := headerWord code.length, words := codeWordsOf code } := by
  rw [lutEntry, h]

theorem lutEntry_of_no_code {codes : List (Nat × List Bool)} {x : Nat} (h : codeFor codes x = none) :
    lutEntry codes x = { sym := x, header := 0, words := [] } := by
  rw [lutEntry, h]

/-- Settles O57: the entry of a symbol that occurs holds its code, and the entry of any other one the header 0. -/
theorem compiledLutGivesTheCodes : Obligations.CompiledLutGivesTheCodes := by
  intro s seq im hc hseq him hlut
  refine ⟨fun p hp => ?_, fun x hx hnot => ?_⟩
  · have hx : p.1 < s.cfg.alphabet := hseq p.1 (mem_keys_compiledCodes_iff.1 (List.mem_map_of_mem hp))
    have hsym : (BitVec.ofNat 8 p.1).toNat = p.1 := Nat.mod_eq_of_lt (hx.trans_le (Config.alphabet_le hc))
    have hfit := (compile_eq_ok_iff.1 him).1 p hp
    have hentry := lutEntry_mem_lut him hx
    rw [lutEntry_of_code (codeFor_of_mem (nodup_keys_compiledCodes s.cfg seq) hp)] at hentry
    obtain ⟨hheader, hwords⟩ := (hlut _ hentry).2 (headerWord_valid p.2.length)
    have hlen := headerWord_len (hfit.trans hc.2.1.2)
    unfold HasCode Usable
    rw [hsym, hheader, hlen]
    refine ⟨⟨headerWord_valid _, (compiledCodes_length hc hseq hp).1, hfit⟩, rfl, fun j hj => ?_⟩
    obtain ⟨hlt, hword⟩ := codeWordsOf_getElem? hj
    exact ⟨leftWord p.2 (j / 32), (hwords _ hlt).trans hword, getLsbD_leftWord p.2 j⟩
  · have hentry := lutEntry_mem_lut him hx
    rw [lutEntry_of_no_code (codeFor_of_not_mem (mt mem_keys_compiledCodes_iff.1 hnot))] at hentry
    exact (hlut _ hentry).1.trans zeroHeader_invalid

end LutImage

section RomImage

theorem CodeTree.number_node (z o : CodeTree) (f next : Nat) :
    (CodeTree.node z o f).number next =
      (nodeWord (next + 1) (z.number (next + 1)).2 :: ((z.number (next + 1)).1 ++ (o.number (z.number (next + 1)).2).1),
        (o.number (z.number (next + 1)).2).2) := rfl

/-- A tree of `L` leaves has `2L - 1` nodes, whose words stand at the indices from `next` up (R108, R115). -/
theorem CodeTree.number_size (t : CodeTree) (next : Nat) :
    (t.number next).2 = next + (t.number next).1.length ∧ (t.number next).1.length + 1 = 2 * t.symbols.length := by
  induction t generalizing next with
  | leaf x f => exact ⟨rfl, rfl⟩
  | node z o f ihz iho =>
    obtain ⟨hzstop, hzlen⟩ := ihz (next + 1)
    obtain ⟨hostop, holen⟩ := iho (z.number (next + 1)).2
    simp only [CodeTree.number_node, CodeTree.symbols, List.length_cons, List.length_append]
    omega

theorem CodeTree.number_length_pos (t : CodeTree) (next : Nat) : 0 < (t.number next).1.length := by
  obtain ⟨-, hlen⟩ := t.number_size next
  have hpos := t.symbols_length_pos
  omega

theorem ofWord_leafWord (x : Nat) : Node.leaf (.ofWord (leafWord x)) = true ∧ Node.a (.ofWord (leafWord x)) = BitVec.ofNat 9 x :=
  ⟨getLsbD_markedWord x, extractLsb'_markedWord x (by decide)⟩

theorem getLsbD_nodeWord (z o i : Nat) :
    (nodeWord z o).getLsbD i = (decide (i < 32) && (!decide (i < 16) && o.testBit (i - 16) || z.testBit i)) := by
  simp only [nodeWord, BitVec.getLsbD_or, BitVec.getLsbD_shiftLeft, BitVec.getLsbD_ofNat]
  by_cases hi : i < 32
  · have : i - 16 < 32 := by omega
    simp [hi, this]
  · simp [hi]

theorem testBit_of_lt_9 {n i : Nat} (hn : n < 2 ^ 9) (hi : 9 ≤ i) : n.testBit i = false :=
  Nat.testBit_lt_two_pow (hn.trans_le (Nat.pow_le_pow_right Nat.two_pos hi))

/-- A node word keeps both children's indices, which have 9 bits each (30_encoding.md R69). -/
theorem ofWord_nodeWord {z o : Nat} (hz : z < 2 ^ 9) (ho : o < 2 ^ 9) :
    Node.ofWord (nodeWord z o) = { leaf := false, a := BitVec.ofNat 9 z, b := BitVec.ofNat 9 o } := by
  have hleaf : (nodeWord z o).getLsbD 31 = false := by
    rw [getLsbD_nodeWord, testBit_of_lt_9 hz (by decide), testBit_of_lt_9 ho (by decide)]; rfl
  have ha : (nodeWord z o).extractLsb' 0 9 = BitVec.ofNat 9 z := by
    refine BitVec.eq_of_getLsbD_eq fun i hi => ?_
    have h16 : i < 16 := by omega
    have h32 : i < 32 := by omega
    rw [BitVec.getLsbD_extractLsb', getLsbD_nodeWord, BitVec.getLsbD_ofNat]
    simp [hi, h16, h32]
  have hb : (nodeWord z o).extractLsb' 16 9 = BitVec.ofNat 9 o := by
    refine BitVec.eq_of_getLsbD_eq fun i hi => ?_
    have h32 : 16 + i < 32 := by omega
    rw [BitVec.getLsbD_extractLsb', getLsbD_nodeWord, BitVec.getLsbD_ofNat, testBit_of_lt_9 hz (by omega)]
    simp [hi, h32]
  rw [Node.ofWord, hleaf, ha, hb]

variable {s : State}

/-- The ROM holds the words from index `next` up. -/
def RomHolds (s : State) (next : Nat) (words : List Word) : Prop :=
  ∀ i, i < words.length → Memory.read s.rom (next + i) = (words[i]?).map Node.ofWord

theorem romHolds_cons {next : Nat} {w : Word} {words : List Word} (h : RomHolds s next (w :: words)) :
    Memory.read s.rom next = some (.ofWord w) ∧ RomHolds s (next + 1) words := by
  refine ⟨h 0 (Nat.succ_pos _), fun i hi => ?_⟩
  rw [Nat.add_assoc, Nat.add_comm 1 i]
  exact h (i + 1) (Nat.succ_lt_succ hi)

theorem romHolds_append {next : Nat} {words more : List Word} (h : RomHolds s next (words ++ more)) :
    RomHolds s next words ∧ RomHolds s (next + words.length) more := by
  refine ⟨fun i hi => ?_, fun i hi => ?_⟩
  · rw [h i (by rw [List.length_append]; omega), List.getElem?_append_left hi]
  · rw [Nat.add_assoc, h (words.length + i) (by rw [List.length_append]; omega), List.getElem?_append_right (Nat.le_add_right ..),
      Nat.add_sub_cancel_left]

/-- The ROM stores a tree whose root is at `cur`, with every node's index in range. -/
def TreeAt (s : State) : CodeTree → NodeIx → Prop
  | .leaf x _, cur =>
    cur.toNat < s.cfg.nodes ∧ ∃ node, Memory.read s.rom cur.toNat = some node ∧ node.leaf = true ∧ node.sym s.cfg = BitVec.ofNat 8 x
  | .node z o _, cur =>
    cur.toNat < s.cfg.nodes ∧ ∃ node, Memory.read s.rom cur.toNat = some node ∧ node.leaf = false ∧
      TreeAt s z (node.child false) ∧ TreeAt s o (node.child true)

/-- The words of a tree store it where they are loaded (R115). -/
theorem treeAt_of_romHolds (hc : s.cfg.wf) {t : CodeTree} {next : Nat} (ht : ∀ x ∈ t.symbols, x < s.cfg.alphabet)
    (hfit : next + (t.number next).1.length ≤ s.cfg.nodes) (h : RomHolds s next (t.number next).1) :
    TreeAt s t (BitVec.ofNat 9 next) := by
  have halphabet := Config.alphabet_le hc
  have hnodes : s.cfg.nodes < 2 ^ 9 := by unfold Config.nodes; omega
  induction t generalizing next with
  | leaf x f =>
    obtain ⟨hread, -⟩ := romHolds_cons h
    obtain ⟨hleaf, ha⟩ := ofWord_leafWord x
    have hx : x < s.cfg.alphabet := ht x List.mem_cons_self
    have hlt : next < s.cfg.nodes := hfit
    have hnext : (BitVec.ofNat 9 next).toNat = next := Nat.mod_eq_of_lt (by omega)
    refine ⟨by omega, _, (congrArg _ hnext).trans hread, hleaf, ?_⟩
    rw [Node.sym, ha, BitVec.toNat_ofNat, Nat.mod_eq_of_lt (by omega), Config.symOf, Nat.mod_eq_of_lt hx]
  | node z o f ihz iho =>
    obtain ⟨hroot, hrest⟩ := romHolds_cons h
    obtain ⟨hzrom, horom⟩ := romHolds_append hrest
    obtain ⟨hmid, -⟩ := z.number_size (next + 1)
    obtain ⟨htz, hto⟩ := List.forall_mem_append.1 ht
    simp only [CodeTree.number_node, List.length_cons, List.length_append] at hfit
    have hopos : 0 < (o.number (z.number (next + 1)).2).1.length := o.number_length_pos _
    have hnext : (BitVec.ofNat 9 next).toNat = next := Nat.mod_eq_of_lt (by omega)
    rw [← hmid] at horom
    rw [ofWord_nodeWord (by omega) (by omega)] at hroot
    exact ⟨by omega, _, (congrArg _ hnext).trans hroot, rfl, ihz htz (by omega) hzrom, iho hto (by omega) horom⟩

theorem leafPath_cons {cur : NodeIx} {b : Bool} {bits : List Bool} {x : Sym} {node child : Node}
    (hnode : Memory.read s.rom cur.toNat = some node) (hlt : (node.child b).toNat < s.cfg.nodes)
    (hchild : Memory.read s.rom (node.child b).toNat = some child) (hinternal : child.leaf = false)
    (h : LeafPath s (node.child b) bits x) : LeafPath s cur (b :: bits) x := by
  obtain ⟨front, last, stop, before, leaf, rfl, hfront, hlast⟩ := h
  exact ⟨b :: front, last, stop, before, leaf, rfl, ⟨node, child, hnode, hlt, hchild, hinternal, hfront⟩, hlast⟩

/-- Bit `b` leads from a node to its subtree of that side, and a path of the subtree on from there. -/
theorem TreeAt.leafPath {t : CodeTree} {cur : NodeIx} {b : Bool} {node : Node} {p : Nat × List Bool}
    (hnode : Memory.read s.rom cur.toNat = some node) (h : TreeAt s t (node.child b)) (hp : p ∈ t.paths []) :
    LeafPath s cur (b :: p.2) (BitVec.ofNat 8 p.1) := by
  induction t generalizing cur b node p with
  | leaf x f =>
    obtain ⟨hlt, child, hchild, hleaf, hsym⟩ := h
    rw [CodeTree.mem_paths_leaf_iff.1 hp]
    exact ⟨[], b, cur, node, child, rfl, rfl, hnode, hlt, hchild, hleaf, hsym⟩
  | node z o f ihz iho =>
    obtain ⟨hlt, child, hchild, hinternal, hz, ho⟩ := h
    refine CodeTree.mem_paths_node_iff.1 hp |>.elim ?_ ?_
    · rintro ⟨q, hq, rfl⟩
      exact leafPath_cons hnode hlt hchild hinternal (ihz hchild hz hq)
    · rintro ⟨q, hq, rfl⟩
      exact leafPath_cons hnode hlt hchild hinternal (iho hchild ho hq)

theorem treeCfgImage_some (t : CodeTree) :
    (treeCfgImage (some t)).getLsbD 31 = true ∧ (treeCfgImage (some t)).extractLsb' 0 9 = 0 := by
  rw [treeCfgImage]; decide

/-- Settles O58: the ROM image stores the tree from index 0, and two distinct symbols make its root internal. -/
theorem compiledRomFollowsTheCodes : Obligations.CompiledRomFollowsTheCodes := by
  intro s seq im hc hseq ⟨x, hx, y, hy, hxy⟩ him ⟨hrom, hvalid, hroot⟩
  obtain ⟨-, rfl⟩ := compile_eq_ok_iff.1 him
  obtain ⟨t, ht, hmem, hsize⟩ := buildTree_countFrequencies (List.ne_nil_of_mem hx) hseq
  rw [ht] at hrom hvalid hroot
  obtain ⟨-, hlen⟩ := t.number_size 0
  have htree : TreeAt s t 0 := treeAt_of_romHolds (next := 0) hc (fun z hz => hseq z ((hmem z).1 hz)) (by unfold Config.nodes; omega)
    fun i hi => (Nat.zero_add i).symm ▸ hrom i hi
  obtain ⟨hcfgValid, hcfgRoot⟩ := treeCfgImage_some t
  rw [hroot.trans hcfgRoot, compiledCodes, ht]
  cases t with
  | leaf z f =>
    have heq : ∀ w ∈ seq, w = z := fun w hw => List.mem_singleton.1 ((hmem w).2 hw)
    exact absurd ((heq x hx).trans (heq y hy).symm) hxy
  | node z o f =>
    obtain ⟨-, node, hnode, hinternal, hz, ho⟩ := htree
    refine ⟨hvalid.trans hcfgValid, rfl, ⟨node, hnode, hinternal⟩, fun p hp => ?_⟩
    rcases (CodeTree.mem_paths_node_iff (f := f)).1 hp with ⟨q, hq, rfl⟩ | ⟨q, hq, rfl⟩
    · exact hz.leafPath hnode hq
    · exact ho.leafPath hnode hq

end RomImage

end Sys2Proof.Machine
end

section
/-! SUPPORT. The bitpacker's closed forms (43_bitpacker.md R125, R128): what the staged bytes hold of the bits packed so far, and the bit that
UNPACK_BIT takes of BITBUF. -/

namespace Sys2Proof.Machine

open Sys2Proof.Claims

section StagedBytes

/-- Bit position `i` of staged bytes (20_memory.md R48); 0 past them. -/
def byteBit (out : List Byte) (i : Nat) : Bool := streamBit (out.getD (i / 8) 0) i

theorem byteBit_eq_getLsbD (out : List Byte) (q : Nat) {r : Nat} (hr : r ≤ 7) :
    byteBit out (8 * q + r) = (out.getD q 0).getLsbD (7 - r) := by
  rw [byteBit, streamBit, show (8 * q + r) / 8 = q by omega, show (8 * q + r) % 8 = r by omega]

theorem byteBit_append_left {out : List Byte} {i : Nat} (hi : i < 8 * out.length) (more : List Byte) :
    byteBit (out ++ more) i = byteBit out i := by
  rw [byteBit, List.getD_append _ _ _ _ (by omega), byteBit]

/-- An empty byte at the end adds no 1. -/
theorem byteBit_append_zero (out : List Byte) (i : Nat) : byteBit (out ++ [0]) i = byteBit out i := by
  by_cases hi : i < 8 * out.length
  · exact byteBit_append_left hi [0]
  · rw [byteBit, byteBit, List.getD_append_right _ _ _ _ (by omega), List.getD_eq_default _ _ (by omega : out.length ≤ i / 8)]
    cases i / 8 - out.length <;> rfl

theorem getLsbD_setBit (v : Byte) {j : Nat} (hj : j < 8) (b : Bool) (k : Nat) :
    (setBit v j b).getLsbD k = if k = j then b else v.getLsbD k := by
  have hmask : (1#8 <<< j).getLsbD k = decide (k = j) := by
    rw [← BitVec.twoPow_eq, BitVec.getLsbD_twoPow, decide_eq_true hj, Bool.true_and]
    exact decide_eq_decide.2 eq_comm
  cases b with
  | true =>
    rw [setBit, if_pos rfl, BitVec.getLsbD_or, hmask]
    by_cases hk : k = j <;> simp [hk]
  | false =>
    rw [setBit, if_neg Bool.false_ne_true, BitVec.getLsbD_and, BitVec.getLsbD_not, hmask]
    by_cases hk : k = j
    · simp [hk]
    · simpa [hk] using BitVec.lt_of_getLsbD

/-- PACK_BIT fills position `n` of the last byte and leaves every other one (R122). -/
theorem byteBit_append_setBit (out : List Byte) (v : Byte) {n : Nat} (hn : n < 8) (b : Bool) (i : Nat) :
    byteBit (out ++ [setBit v (7 - n) b]) i = if i = 8 * out.length + n then b else byteBit (out ++ [v]) i := by
  rcases Nat.lt_trichotomy (i / 8) out.length with hlt | hlast | hgt
  · rw [byteBit_append_left (by omega), byteBit_append_left (by omega), if_neg (by omega)]
  · have hpos : 7 - i % 8 = 7 - n ↔ i = 8 * out.length + n := by omega
    have hj : 7 - n < 8 := by omega
    simp [byteBit, streamBit, hlast, getLsbD_setBit v hj, hpos]
  · rw [if_neg (by omega), byteBit, byteBit, List.getD_eq_default _ _ (by simpa using hgt), List.getD_eq_default _ _ (by simpa using hgt)]

end StagedBytes

section Packing

variable {p : Packer} {bits : List Bool}

/-- What the packer has staged, the byte being assembled included, is the bits packed since PACK_BEGIN, with 0 past them (R120). -/
structure Packer.Holds (p : Packer) (bits : List Bool) : Prop where
  counts : p.Counts
  total : p.total = bits.length
  wptr : p.wptr = p.out.length
  bit : ∀ i, byteBit (p.out ++ [p.acc]) i = bits.getD i false

theorem packBegin_holds : packBegin.Holds [] where
  counts := ⟨by decide, rfl⟩
  total := rfl
  wptr := rfl
  bit i := byteBit_append_zero [] i |>.trans (by simp [byteBit, streamBit])

theorem Packer.packBit_wptr (h : p.wptr = p.out.length) (b : Bool) : (p.packBit b).wptr = (p.packBit b).out.length := by
  by_cases hfull : p.nacc = 7
  · simp [packBit_full hfull, h]
  · rw [packBit_partial (by omega), h]

theorem Packer.packBit_holds (h : p.Holds bits) (b : Bool) : (p.packBit b).Holds (bits ++ [b]) := by
  obtain ⟨hcounts, htotal, hwptr, hbit⟩ := h
  have ⟨hnacc, hcount⟩ := hcounts
  have hfill (i : Nat) : byteBit (p.out ++ [setBit p.acc (7 - p.nacc) b]) i = (bits ++ [b]).getD i false := by
    rw [byteBit_append_setBit _ _ hnacc, hbit, ← hcount, htotal]
    grind
  refine ⟨packBit_counts hcounts b, by rw [packBit_total, htotal, List.length_append]; rfl, packBit_wptr hwptr b, fun i => ?_⟩
  by_cases hfull : p.nacc = 7
  · rw [packBit_full hfull, byteBit_append_zero, ← hfill, hfull]
  · rw [packBit_partial (by omega), hfill]

theorem Packer.packCode_holds (h : p.Holds bits) (c : List Bool) : (p.packCode c).Holds (bits ++ c) := by
  induction c generalizing p bits with
  | nil => rwa [packCode_nil, List.append_nil]
  | cons b c ih => simpa [packCode_cons] using ih (packBit_holds h b)

/-- Packing code after code is packing their concatenation (R123). -/
theorem Packer.foldl_packCode (p : Packer) (codes : List (List Bool)) : codes.foldl Packer.packCode p = p.packCode codes.flatten :=
  List.foldl_flatten.symm

/-- PACK_FLUSH stages the byte being assembled where it holds a bit (R124). -/
theorem Packer.flush_of_holds (h : p.Holds bits) :
    p.flush.total = bits.length ∧ p.flush.wptr = p.flush.out.length ∧
      ∀ i, i < 8 * p.flush.out.length → byteBit p.flush.out i = bits.getD i false := by
  obtain ⟨-, htotal, hwptr, hbit⟩ := h
  unfold Packer.flush
  split_ifs with hpos
  · exact ⟨htotal, by simp [emit, hwptr], fun i _ => hbit i⟩
  · exact ⟨htotal, hwptr, fun i hi => (byteBit_append_left hi [p.acc]).symm.trans (hbit i)⟩

/-- Settles O35: the packer holds the concatenated codes after each of them, and PACK_FLUSH stages what it holds. -/
theorem packingPutsBitsMsbFirst : Obligations.PackingPutsBitsMsbFirst := by
  intro codes p hp
  have hholds : (packBegin.packCode codes.flatten).Holds codes.flatten := Packer.packCode_holds packBegin_holds codes.flatten
  have hlen := Packer.flush_length hholds.counts
  obtain ⟨htotal, hwptr, hbit⟩ := Packer.flush_of_holds hholds
  rw [hholds.total] at hlen
  rw [Packer.foldl_packCode] at hp
  subst hp
  refine ⟨htotal, hlen, hwptr.trans hlen, fun q r hq hr => ?_⟩
  rw [← byteBit_eq_getLsbD _ q hr, hbit _ (by omega)]

end Packing

section Unpacking

variable {s : State} {u : Unpacker} {b : Bool}

theorem State.unpackBit_of_bitAt (hlt : u.rpos < u.limit) (hb : BitAt s.bitbuf u.rpos b) :
    s.unpackBit u = .ok (some (b, { u with rpos := u.rpos + 1 })) := by
  obtain ⟨v, hread, rfl⟩ := hb
  rw [State.unpackBit_eq, if_neg (Nat.not_le.2 hlt), streamBitAt, hread]
  rfl

theorem State.unpackBit_at_limit (hle : u.limit ≤ u.rpos) : s.unpackBit u = .ok none := by
  rw [State.unpackBit_eq, if_pos hle]

/-- Settles O36: UNPACK_BIT takes the bit of BITBUF at its position, and none from the limit up. -/
theorem unpackingReturnsTheStreamBits : Obligations.UnpackingReturnsTheStreamBits :=
  fun _ _ _ _ => ⟨fun hlt hb => State.unpackBit_of_bitAt hlt hb, fun hle => State.unpackBit_at_limit hle⟩

end Unpacking

end Sys2Proof.Machine
end

section
/-! SUPPORT. The two passes of ENCODE (44_encoder.md R129, R130, R135): what each of them does at one symbol, over symbols that are written and
coded, and at the first symbol or code word that is not. -/

namespace Sys2Proof.Machine

open Sys2Proof.Claims

section EngineReads

theorem engineRead_of_written {α : Type} {c : Cell} {o : Option α} {v : α} (h : o = some v) : engineRead (written c o) = .ok v :=
  engineRead_eq_ok.2 (written_eq_ok.2 h)

theorem engineRead_of_unwritten {α : Type} {c : Cell} {o : Option α} (h : o = none) :
    engineRead (written c o) = .error (.fault (.uninitRead c)) :=
  engineRead_eq_error.2 ⟨_, written_eq_error.2 ⟨h, rfl⟩, rfl⟩

end EngineReads

variable {s : State} {i : Nat} {x : Sym} {xs : List Sym} {e : Stop}

section Symbols

/-- SYMBUF holds the symbols `xs` from index `i` up. -/
def SymbolsFrom (s : State) (i : Nat) (xs : List Sym) : Prop :=
  ∀ j, j < xs.length → Memory.read s.symbuf (i + j) = xs[j]?

theorem symbolsFrom_of_symbufHolds (h : SymbufHolds s xs) : SymbolsFrom s 0 xs := fun j hj => by
  rw [Nat.zero_add]; exact h j hj

theorem SymbolsFrom.head (h : SymbolsFrom s i (x :: xs)) : Memory.read s.symbuf i = some x := h 0 (Nat.succ_pos _)

theorem SymbolsFrom.tail (h : SymbolsFrom s i (x :: xs)) : SymbolsFrom s (i + 1) xs := fun j hj => by
  rw [Nat.add_assoc, Nat.add_comm 1]; exact h (j + 1) (Nat.succ_lt_succ hj)

theorem SymbolsFrom.append_left {ys : List Sym} (h : SymbolsFrom s i (xs ++ ys)) : SymbolsFrom s i xs := fun j hj => by
  rw [h j (by rw [List.length_append]; omega), List.getElem?_append_left hj]

theorem SymbolsFrom.append_right {ys : List Sym} (h : SymbolsFrom s i (xs ++ ys)) : SymbolsFrom s (i + xs.length) ys := fun j hj => by
  rw [Nat.add_assoc, h (xs.length + j) (by rw [List.length_append]; omega), List.getElem?_append_right (Nat.le_add_right ..),
    Nat.add_sub_cancel_left]

end Symbols

section Pass1

variable {m total : Nat}

/-- The lengths that the LUT headers give the symbols, added up (R130 (3)). -/
def State.codeLengths (s : State) (xs : List Sym) : Nat := (xs.map fun y => (s.lutHeader y.toNat).len.toNat).sum

theorem kind_of_usable (h : Usable s x) : (s.lutHeader x.toNat).kind s.cfg = .usable := by
  obtain ⟨hv, hpos, hmax⟩ := h
  rw [LutHeader.kind, if_neg (by simp [hv]), if_neg (by omega)]

theorem State.checkSymbols_usable (hread : Memory.read s.symbuf i = some x) (hx : Usable s x) :
    s.checkSymbols i (m + 1) total = s.checkSymbols (i + 1) m (total + (s.lutHeader x.toNat).len.toNat) := by
  rw [State.checkSymbols, State.readSymbuf, engineRead_of_written hread]
  simp only [kind_of_usable hx]

theorem State.checkSymbols_absent (hread : Memory.read s.symbuf i = some x) (hv : (s.lutHeader x.toNat).v = false) :
    s.checkSymbols i (m + 1) total = .error (.raise .noCode (symbolInfo x i)) := by
  have hkind : (s.lutHeader x.toNat).kind s.cfg = .absent := if_pos hv
  rw [State.checkSymbols, State.readSymbuf, engineRead_of_written hread]
  simp only [hkind]

theorem State.checkSymbols_bad (hread : Memory.read s.symbuf i = some x) (hv : (s.lutHeader x.toNat).v = true)
    (hlen : (s.lutHeader x.toNat).len = 0 ∨ s.cfg.maxLen < (s.lutHeader x.toNat).len.toNat) :
    s.checkSymbols i (m + 1) total = .error (.raise .badCode (symbolInfo x i)) := by
  have hkind : (s.lutHeader x.toNat).kind s.cfg = .bad := by
    rw [LutHeader.kind, if_neg (by simp [hv]), if_pos (hlen.imp_left fun h => by rw [h]; rfl)]
  rw [State.checkSymbols, State.readSymbuf, engineRead_of_written hread]
  simp only [hkind]

theorem State.checkSymbols_unwritten (hread : Memory.read s.symbuf i = none) :
    s.checkSymbols i (m + 1) total = .error (.fault (.uninitRead (.symbuf i))) := by
  rw [State.checkSymbols, State.readSymbuf, engineRead_of_unwritten hread]

/-- Pass 1 passes over usable symbols and adds up their lengths. -/
theorem State.checkSymbols_usables (hread : SymbolsFrom s i xs) (hx : ∀ y ∈ xs, Usable s y) :
    s.checkSymbols i (xs.length + m) total = s.checkSymbols (i + xs.length) m (total + s.codeLengths xs) := by
  induction xs generalizing i total with
  | nil => simp [State.codeLengths]
  | cons x xs ih =>
    obtain ⟨hhead, htail⟩ := List.forall_mem_cons.1 hx
    rw [List.length_cons, Nat.add_right_comm, State.checkSymbols_usable hread.head hhead, ih hread.tail htail,
      State.codeLengths, State.codeLengths, List.map_cons, List.sum_cons, Nat.add_assoc total, Nat.add_assoc i, Nat.add_comm 1]

/-- Pass 1 over all the symbols asked for, each of them usable, counts the bits (R130 (2)). -/
theorem State.checkSymbols_all {n : Nat} (hn : xs.length = n) (hread : SymbufHolds s xs) (hx : ∀ y ∈ xs, Usable s y) :
    s.checkSymbols 0 n 0 = .ok (s.codeLengths xs) := by
  rw [← hn, ← Nat.add_zero xs.length, State.checkSymbols_usables (symbolsFrom_of_symbufHolds hread) hx, State.checkSymbols, Nat.zero_add]

/-- Behind usable symbols, pass 1 goes on with the next one. -/
theorem State.checkSymbols_from {n : Nat} (hn : xs.length < n) (hread : SymbolsFrom s 0 xs) (hx : ∀ y ∈ xs, Usable s y) :
    ∃ m total, s.checkSymbols 0 n 0 = s.checkSymbols xs.length (m + 1) total := by
  obtain ⟨m, rfl⟩ := Nat.exists_eq_add_of_lt hn
  exact ⟨m, _, by rw [Nat.add_assoc, State.checkSymbols_usables hread hx, Nat.zero_add]⟩

end Pass1

section Pass2

variable {c : List Bool} {m w : Nat} {p : Packer}

theorem State.codeBits_of_words {sym j : Nat} (hlen : j + m = c.length)
    (hwords : ∀ k, k < c.length →
      ∃ w, Memory.read s.lutCode (lutCodeIndex sym (k / 32)) = some w ∧ w.getLsbD (31 - k % 32) = c.getD k false) :
    s.codeBits sym j m = .ok (c.drop j) := by
  induction m generalizing j with
  | zero => rw [State.codeBits, List.drop_eq_nil_of_le (by omega)]
  | succ m ih =>
    have hj : j < c.length := by omega
    obtain ⟨w, hread, hbit⟩ := hwords j hj
    rw [State.codeBits, State.readLutCode, engineRead_of_written hread, ih (by omega), List.drop_eq_getElem_cons hj,
      ← List.getD_eq_getElem _ false hj, ← hbit]

/-- The code that the LUT gives a symbol is the one that pass 2 packs (30_encoding.md R72). -/
theorem State.codeOf_of_hasCode (h : HasCode s x c) : s.codeOf x.toNat = .ok c := by
  obtain ⟨-, hlen, hwords⟩ := h
  rw [State.codeOf, hlen, State.codeBits_of_words (Nat.zero_add _) hwords, List.drop_zero]

/-- The first unwritten code word that a code needs stops the reading of the code (R135). -/
theorem State.codeBits_unwritten {sym j : Nat} (hj : j ≤ 32 * w) (hw : 32 * w < j + m)
    (hbefore : ∀ v, v < w → Memory.read s.lutCode (lutCodeIndex sym v) ≠ none)
    (hread : Memory.read s.lutCode (lutCodeIndex sym w) = none) :
    s.codeBits sym j m = .error (.fault (.uninitRead (.lutc sym w))) := by
  induction m generalizing j with
  | zero => omega
  | succ m ih =>
    rw [State.codeBits, State.readLutCode]
    rcases Nat.lt_or_ge (j / 32) w with hlt | hge
    · obtain ⟨v, hv⟩ := Option.ne_none_iff_exists'.1 (hbefore _ hlt)
      rw [engineRead_of_written hv, ih (by omega) (by omega)]
    · obtain rfl : j / 32 = w := by omega
      rw [engineRead_of_unwritten hread]

theorem State.packSymbols_code (hread : Memory.read s.symbuf i = some x) (hc : s.codeOf x.toNat = .ok c) :
    s.packSymbols i (m + 1) p = s.packSymbols (i + 1) m (p.packCode c) := by
  rw [State.packSymbols, State.readSymbuf, engineRead_of_written hread]
  simp only [hc]

theorem State.packSymbols_code_error (hread : Memory.read s.symbuf i = some x) (hc : s.codeOf x.toNat = .error e) :
    s.packSymbols i (m + 1) p = .error e := by
  rw [State.packSymbols, State.readSymbuf, engineRead_of_written hread]
  simp only [hc]

/-- Pass 2 packs the codes of coded symbols, one behind the other. -/
theorem State.packSymbols_codes {codes : List (List Bool)} (hread : SymbolsFrom s i xs) (hcodes : List.Forall₂ (HasCode s) xs codes) :
    s.packSymbols i (xs.length + m) p = s.packSymbols (i + xs.length) m (p.packCode codes.flatten) := by
  induction hcodes generalizing i p with
  | nil => simp
  | @cons x c xs codes hx _ ih =>
    rw [List.length_cons, Nat.add_right_comm, State.packSymbols_code hread.head (State.codeOf_of_hasCode hx), ih hread.tail, List.flatten_cons,
      Packer.packCode_append, Nat.add_assoc i, Nat.add_comm 1]

end Pass2

section Run

variable {n total : Nat}

theorem State.encodeRun_of_count (h : s.cfg.symCap < s.encNsym.toNat) :
    s.encodeRun = .error (.raise .nsymRange (countInfo s.encNsym.toNat)) :=
  if_pos h

theorem State.encodeRun_of_check_error (hn : s.encNsym.toNat ≤ s.cfg.symCap) (hc : s.checkSymbols 0 s.encNsym.toNat 0 = .error e) :
    s.encodeRun = .error e := by
  rw [State.encodeRun, if_neg (Nat.not_lt.2 hn), hc]

theorem State.encodeRun_of_overflow (hn : s.encNsym.toNat ≤ s.cfg.symCap) (hc : s.checkSymbols 0 s.encNsym.toNat 0 = .ok total)
    (ht : 8 * s.cfg.byteCap < total) : s.encodeRun = .error (.raise .outOvf (countInfo total)) := by
  rw [State.encodeRun, if_neg (Nat.not_lt.2 hn), hc]
  exact if_pos ht

/-- With every check passed, the run is pass 2's. -/
theorem State.encodeRun_of_checks (hn : s.encNsym.toNat ≤ s.cfg.symCap) (hc : s.checkSymbols 0 s.encNsym.toNat 0 = .ok total)
    (ht : total ≤ 8 * s.cfg.byteCap) :
    s.encodeRun = (s.packSymbols 0 s.encNsym.toNat packBegin).map fun p => { total := total, bytes := p.flush.out } := by
  rw [State.encodeRun, if_neg (Nat.not_lt.2 hn), hc]
  dsimp only
  rw [if_neg (Nat.not_lt.2 ht)]
  cases s.packSymbols 0 s.encNsym.toNat packBegin <;> rfl

theorem execEncode_of_ok {r : EncodeResult} (h : s.encodeRun = .ok r) : execEncode s = .next (s.commitEncode r) := by
  rw [execEncode, h]

theorem execEncode_of_raise {c : Cause} {info : Word} (h : s.encodeRun = .error (.raise c info)) :
    execEncode s = .next (encodeFailed s c info) := by
  rw [execEncode, h]; rfl

theorem execEncode_of_fault {f : Fault} (h : s.encodeRun = .error (.fault f)) : execEncode s = .next (s.faultEncode f) := by
  rw [execEncode, h]

end Run

end Sys2Proof.Machine
end

section
/-! SUPPORT. What ENCODE does, however its run ends (44_encoder.md R130 to R137). -/

namespace Sys2Proof.Machine

open Sys2Proof.Claims

section Success

variable {s : State} {xs : List Sym} {codes : List (List Bool)} {bits : List Bool}

theorem State.encodeRun_of_nothing (h : s.encNsym = 0) : s.encodeRun = .ok { total := 0, bytes := [] } := by
  have hn : s.encNsym.toNat = 0 := by rw [h]; rfl
  rw [State.encodeRun_of_checks (total := 0) (by omega) (by rw [hn, State.checkSymbols]) (Nat.zero_le _), hn, State.packSymbols]
  rfl

/-- Settles O39: neither pass reads anything, and no byte is staged. -/
theorem encodeOfNothingSucceeds : Obligations.EncodeOfNothingSucceeds :=
  fun _ h => execEncode_of_ok (State.encodeRun_of_nothing h)

/-- The lengths of the LUT headers are those of the codes. -/
theorem State.codeLengths_of_hasCode (h : List.Forall₂ (HasCode s) xs codes) : s.codeLengths xs = codes.flatten.length := by
  induction h with
  | nil => rfl
  | @cons x c xs codes hx _ ih =>
    obtain ⟨-, hlen, -⟩ := hx
    rw [State.codeLengths] at ih ⊢
    rw [List.map_cons, List.sum_cons, ih, hlen, List.flatten_cons, List.length_append]

theorem usable_of_hasCode (h : List.Forall₂ (HasCode s) xs codes) : ∀ y ∈ xs, Usable s y := by
  induction h with
  | nil => exact fun _ hy => absurd hy List.not_mem_nil
  | cons hx _ ih => exact List.forall_mem_cons.2 ⟨hx.1, ih⟩

/-- The run of ENCODE over coded symbols packs their codes (R131). -/
theorem State.encodeRun_of_codes (hlen : s.encNsym.toNat = xs.length) (hn : xs.length ≤ s.cfg.symCap) (hread : SymbufHolds s xs)
    (hcodes : List.Forall₂ (HasCode s) xs codes) (hcap : codes.flatten.length ≤ 8 * s.cfg.byteCap) :
    s.encodeRun = .ok { total := codes.flatten.length, bytes := (packBegin.packCode codes.flatten).flush.out } := by
  have hcheck := State.checkSymbols_all hlen.symm hread (usable_of_hasCode hcodes)
  have hpack : s.packSymbols 0 s.encNsym.toNat packBegin = .ok (packBegin.packCode codes.flatten) := by
    rw [hlen, ← Nat.add_zero xs.length, State.packSymbols_codes (symbolsFrom_of_symbufHolds hread) hcodes, State.packSymbols]
  rw [State.codeLengths_of_hasCode hcodes] at hcheck
  rw [State.encodeRun_of_checks (hlen ▸ hn) hcheck hcap, hpack]
  rfl

/-- A bit of committed bytes, at its position in BITBUF (20_memory.md R48). -/
theorem bitAt_writeFrom (m : Memory Byte) {out : List Byte} {p : Nat} (hp : p < 8 * out.length) :
    BitAt (Memory.writeFrom m 0 out) p (byteBit out p) := by
  have hbyte : p / 8 < out.length := by omega
  refine ⟨out.getD (p / 8) 0, ?_, rfl⟩
  rw [Memory.read_writeFrom, if_pos ⟨Nat.zero_le _, by omega⟩, Nat.sub_zero, List.getElem?_eq_getElem hbyte,
    List.getD_eq_getElem _ _ hbyte]

/-- Settles O37: pass 1 passes, pass 2 packs the codes, and the commit writes the packed bytes and none past them. -/
theorem encodePacksTheCodes : Obligations.EncodePacksTheCodes := by
  rintro s xs codes _ hlen hn hread hcodes rfl hcap
  have hrun := State.encodeRun_of_codes hlen hn hread hcodes hcap
  have hbytes : (packBegin.packCode codes.flatten).flush.out.length = ceilDiv codes.flatten.length 8 := (State.encodeRun_fits hrun).1
  obtain ⟨-, -, hbit⟩ := Packer.flush_of_holds (Packer.packCode_holds packBegin_holds codes.flatten)
  refine ⟨_, execEncode_of_ok hrun, ?_, fun p hp => ?_, fun q hq => ?_⟩
  · rw [← hbytes]; rfl
  · rw [← hbytes] at hp
    rw [← List.nil_append codes.flatten, ← hbit p hp]
    exact bitAt_writeFrom s.bitbuf hp
  · refine (Memory.read_writeFrom _ s.bitbuf 0 q).trans (if_neg ?_)
    rw [hbytes]
    omega

end Success

section Failure

/-- Settles O38: the count is checked first, then each symbol behind usable ones, then the total of usable symbols. -/
theorem encodeChecksInOrder : Obligations.EncodeChecksInOrder := by
  intro s
  refine ⟨fun hcount => execEncode_of_raise (State.encodeRun_of_count hcount), fun xs x hn hlt hread hx => ?_,
    fun xs total hn hlen hread hx htotal hcap => ?_⟩
  · have hsymbols := symbolsFrom_of_symbufHolds hread
    have hlast : Memory.read s.symbuf xs.length = some x := Nat.zero_add xs.length ▸ hsymbols.append_right.head
    obtain ⟨m, total, hnext⟩ := State.checkSymbols_from hlt hsymbols.append_left hx
    exact ⟨fun hv => execEncode_of_raise (State.encodeRun_of_check_error hn (hnext.trans (State.checkSymbols_absent hlast hv))),
      fun hv hbad => execEncode_of_raise (State.encodeRun_of_check_error hn (hnext.trans (State.checkSymbols_bad hlast hv hbad)))⟩
  · subst htotal
    exact execEncode_of_raise (State.encodeRun_of_overflow hn (State.checkSymbols_all hlen hread hx) hcap)

/-- Settles O40: a success is no failure, and a model fault is excluded; what is left is a failure with a cause. -/
theorem failedEncodeWritesNoOutput : Obligations.FailedEncodeWritesNoOutput := by
  intro s t ht hfree hfail
  rcases execEncode_cases s with ⟨r, -, he⟩ | ⟨c, info, hr, he⟩ | ⟨f, -, he⟩ <;> cases he.symm.trans ht
  · cases hfail
  · exact ⟨rfl, rfl, rfl, State.encodeRun_error_hasCause hr⟩
  · exact absurd hfree (s.not_faultFree_setModelFault f)

/-- An ENCODE that raises the first model fault sets it, finishes its command and leaves its inputs (R135, R136). -/
theorem execEncode_fault_frame {s : State} {f : Fault} (hfree : s.modelFault = none) (hrun : s.encodeRun = .error (.fault f)) :
    ∃ t, exec .encode s = .next t ∧ t.pending = none ∧ t.modelFault = some f ∧ t.symbuf = s.symbuf ∧ t.lutHdr = s.lutHdr ∧
      t.lutCode = s.lutCode :=
  ⟨_, execEncode_of_fault hrun, rfl, by simp [State.faultEncode, State.engineFault, hfree], rfl, rfl, rfl⟩

/-- Settles O43: pass 1 stops at an unwritten symbol behind usable ones, and pass 2 at an unwritten code word behind coded symbols. -/
theorem encodeFaultsAtTheFirstUnwrittenCell : Obligations.EncodeFaultsAtTheFirstUnwrittenCell := by
  intro s hn hfree
  refine ⟨fun xs hlt hread hx hnone => ?_, fun xs ys x codes w hlen hread hx hcap hcodes hbefore hw hnone => ?_⟩
  · obtain ⟨m, total, hnext⟩ := State.checkSymbols_from hlt (symbolsFrom_of_symbufHolds hread) hx
    exact execEncode_fault_frame hfree (State.encodeRun_of_check_error hn (hnext.trans (State.checkSymbols_unwritten hnone)))
  · have hsymbols := symbolsFrom_of_symbufHolds hread
    have hcode : s.codeOf x.toNat = .error (.fault (.uninitRead (.lutc x.toNat w))) :=
      State.codeBits_unwritten (Nat.zero_le _) (by omega) hbefore hnone
    have hpack : s.packSymbols 0 s.encNsym.toNat packBegin = .error (.fault (.uninitRead (.lutc x.toNat w))) := by
      rw [← hlen, List.length_append, List.length_cons, State.packSymbols_codes hsymbols.append_left hcodes,
        State.packSymbols_code_error hsymbols.append_right.head hcode]
    apply execEncode_fault_frame hfree
    rw [State.encodeRun_of_checks hn (State.checkSymbols_all hlen hread hx) hcap, hpack]
    rfl

end Failure

section Frame

variable {s s' : State}

/-- Settles O41: the three ways ENCODE ends write no input, and the commit writes ENC_BYTELEN bytes from index 0 up. -/
theorem encodeReadsItsInputsOnly : Obligations.EncodeReadsItsInputsOnly := by
  intro s t hc ht
  rcases execEncode_cases s with ⟨r, hr, he⟩ | ⟨c, info, -, he⟩ | ⟨f, -, he⟩ <;> cases he.symm.trans ht <;>
    refine ⟨⟨rfl, rfl, rfl, rfl, rfl, rfl, rfl, rfl, rfl, rfl, rfl, rfl, rfl, rfl, rfl⟩, fun hfree q hq => ?_⟩
  · obtain ⟨hbytes, htotal⟩ := State.encodeRun_fits hr
    have hbytelen : (s.commitEncode r).encBytelen.toNat = r.bytes.length := toNat_bitCount hc (by rw [hbytes, ceilDiv]; omega)
    exact (Memory.read_writeFrom r.bytes s.bitbuf 0 q).trans (if_neg (by omega))
  · rfl
  · exact absurd hfree (s.not_faultFree_setModelFault f)

/-- The two states agree on the configuration and the LUT. -/
structure SameCodes (s s' : State) : Prop where
  cfg : s.cfg = s'.cfg
  header : ∀ sym, s.lutHeader sym = s'.lutHeader sym
  word : ∀ k, Memory.read s.lutCode k = Memory.read s'.lutCode k

/-- The two states agree on the `m` symbols from index `i` up. -/
def SameSymbols (s s' : State) (i m : Nat) : Prop := ∀ j, i ≤ j → j < i + m → Memory.read s.symbuf j = Memory.read s'.symbuf j

theorem SameSymbols.readSymbuf {i m : Nat} (h : SameSymbols s s' i (m + 1)) : s.readSymbuf i = s'.readSymbuf i := by
  rw [State.readSymbuf, h i (Nat.le_refl i) (by omega), State.readSymbuf]

theorem SameSymbols.tail {i m : Nat} (h : SameSymbols s s' i (m + 1)) : SameSymbols s s' (i + 1) m :=
  fun j hij hj => h j (by omega) (by omega)

theorem State.checkSymbols_congr {i m total : Nat} (hcodes : SameCodes s s') (hsym : SameSymbols s s' i m) :
    s.checkSymbols i m total = s'.checkSymbols i m total := by
  induction m generalizing i total with
  | zero => rfl
  | succ m ih =>
    rw [State.checkSymbols, State.checkSymbols, hsym.readSymbuf, hcodes.cfg]
    simp only [hcodes.header, ih hsym.tail]

theorem State.codeBits_congr {sym j m : Nat} (hcodes : SameCodes s s') : s.codeBits sym j m = s'.codeBits sym j m := by
  induction m generalizing j with
  | zero => rfl
  | succ m ih => rw [State.codeBits, State.codeBits, State.readLutCode, State.readLutCode, hcodes.word, ih]

theorem State.codeOf_congr (hcodes : SameCodes s s') (sym : Nat) : s.codeOf sym = s'.codeOf sym := by
  rw [State.codeOf, State.codeOf, hcodes.header, State.codeBits_congr hcodes]

theorem State.packSymbols_congr {i m : Nat} {p : Packer} (hcodes : SameCodes s s') (hsym : SameSymbols s s' i m) :
    s.packSymbols i m p = s'.packSymbols i m p := by
  induction m generalizing i p with
  | zero => rfl
  | succ m ih =>
    rw [State.packSymbols, State.packSymbols, hsym.readSymbuf]
    simp only [State.codeOf_congr hcodes, ih hsym.tail]

/-- The run of ENCODE reads its count, its symbols and the LUT, and nothing else (R137). -/
theorem State.encodeRun_congr (hn : s.encNsym = s'.encNsym) (hcodes : SameCodes s s') (hsym : SameSymbols s s' 0 s.encNsym.toNat) :
    s.encodeRun = s'.encodeRun := by
  rw [State.encodeRun, State.encodeRun, State.checkSymbols_congr hcodes hsym, State.packSymbols_congr hcodes hsym, hn, hcodes.cfg]

/-- Settles O42: the two runs are one, and a successful one's bytes are all of BITBUF below ENC_BYTELEN. -/
theorem encodeDependsOnItsInputsOnly : Obligations.EncodeDependsOnItsInputsOnly := by
  intro s t s' t' hcfg hn hsym hheader hword ht ht' _ hfree' hfreeT
  have hrun : s.encodeRun = s'.encodeRun :=
    State.encodeRun_congr hn ⟨hcfg, hheader, hword⟩ fun j _ hj => hsym j (Nat.zero_add s.encNsym.toNat ▸ hj)
  rcases execEncode_cases s with ⟨r, hr, he⟩ | ⟨c, info, hr, he⟩ | ⟨f, -, he⟩ <;> cases he.symm.trans ht
  · cases (execEncode_of_ok (hrun ▸ hr)).symm.trans ht'
    refine ⟨hfree', rfl, rfl, rfl, rfl, rfl, rfl, fun q hq => ?_⟩
    have hlt : q < r.bytes.length := hq.trans_le (Nat.mod_le ..)
    have hbyte (m : Memory Byte) : Memory.read (Memory.writeFrom m 0 r.bytes) q = r.bytes[q]? :=
      (Memory.read_writeFrom r.bytes m 0 q).trans (if_pos ⟨Nat.zero_le _, by omega⟩)
    exact (hbyte s'.bitbuf).trans (hbyte s.bitbuf).symm
  · cases (execEncode_of_raise (hrun ▸ hr)).symm.trans ht'
    exact ⟨hfree', rfl, rfl, rfl, rfl, rfl, rfl, fun q hq => absurd hq (Nat.not_lt_zero q)⟩
  · exact absurd hfreeT (s.not_faultFree_setModelFault f)

end Frame

end Sys2Proof.Machine
end

section
/-! SUPPORT. A compiled table codes its sequence in at most SYM_W bits a symbol (44_encoder.md R138): the merge loop (42_table_compiler.md R108) ends
in a tree that is no worse than any assignment of lengths that meets the Kraft inequality, and SYM_W bits for every symbol meet it. -/

namespace Sys2Proof.Machine

open Sys2Proof.Claims

section Lengths

/-- Weights times code lengths, added up. -/
def weightedLength (ws ls : List Nat) : Nat := (List.zipWith (· * ·) ws ls).sum

@[simp] theorem weightedLength_cons (w l : Nat) (ws ls : List Nat) :
    weightedLength (w :: ws) (l :: ls) = w * l + weightedLength ws ls := rfl

theorem weightedLength_replicate (ws : List Nat) (l : Nat) : weightedLength ws (List.replicate ws.length l) = ws.sum * l := by
  induction ws with
  | nil => exact (Nat.zero_mul l).symm
  | cons w ws ih => rw [List.length_cons, List.replicate_succ, weightedLength_cons, ih, List.sum_cons, Nat.add_mul]

theorem orderedInsert_of_sorted {α : Type} {r : α → α → Prop} [DecidableRel r] {a : α} {l : List α} (h : (a :: l).Pairwise r) :
    l.orderedInsert r a = a :: l := by
  cases l with
  | nil => rfl
  | cons b l => exact List.orderedInsert_cons_of_le r l (List.rel_of_pairwise_cons h List.mem_cons_self)

/-- Pairing the weights in rising order with the lengths in falling order is the cheapest way to pair them: a new pair costs no more than its own
product. -/
theorem weightedLength_orderedInsert_le {ws ls : List Nat} (hws : ws.Pairwise (· ≤ ·)) (hls : ls.Pairwise (· ≥ ·))
    (hlen : ws.length = ls.length) (w l : Nat) :
    weightedLength (ws.orderedInsert (· ≤ ·) w) (ls.orderedInsert (· ≥ ·) l) ≤ w * l + weightedLength ws ls := by
  induction ws generalizing ls w l with
  | nil => rw [List.length_eq_zero_iff.1 hlen.symm]; exact Nat.le_refl _
  | cons w' ws ih =>
    obtain ⟨l', ls, rfl⟩ := List.exists_cons_of_length_eq_add_one hlen.symm
    have htail := ih hws.of_cons hls.of_cons (Nat.succ.inj hlen)
    rw [List.orderedInsert_cons, List.orderedInsert_cons]
    split_ifs with hw hl hl
    · exact Nat.le_refl _
    · have hswap := mul_add_mul_le_mul_add_mul hw (Nat.le_of_not_le hl)
      have hrest := htail w' l
      rw [orderedInsert_of_sorted hws] at hrest
      simp only [weightedLength_cons] at hrest ⊢
      omega
    · have hswap := mul_add_mul_le_mul_add_mul (Nat.le_of_not_le hw) hl
      have hrest := htail w l'
      rw [orderedInsert_of_sorted hls] at hrest
      simp only [weightedLength_cons] at hrest ⊢
      omega
    · have hrest := htail w l
      simp only [weightedLength_cons]
      omega

/-- Code lengths, the longest first, that meet the Kraft inequality, written with the power of two `2 ^ k` as its right-hand side. -/
structure KraftLengths (k : Nat) (ls : List Nat) : Prop where
  sorted : ls.Pairwise (· ≥ ·)
  kraft : (ls.map fun l => 2 ^ (k - l)).sum ≤ 2 ^ k

theorem kraftLengths_replicate {k m : Nat} (h : m ≤ 2 ^ k) : KraftLengths k (List.replicate m k) where
  sorted := List.pairwise_replicate.2 (.inr (Nat.le_refl k))
  kraft := by simpa using h

/-- The two longest codes can be replaced by one of a bit less than the shorter of them: the shares of the other codes and the whole are multiples
of that code's share, so the longest code leaves room for another such share. -/
theorem KraftLengths.merge {k l l' : Nat} {ls : List Nat} (h : KraftLengths k (l :: l' :: ls)) :
    l' ≤ l ∧ 1 ≤ l' ∧ KraftLengths k (ls.orderedInsert (· ≥ ·) (l' - 1)) := by
  obtain ⟨hsorted, hkraft⟩ := h
  obtain ⟨hlongest, htail⟩ := List.pairwise_cons.1 hsorted
  obtain ⟨hshorter, hrest⟩ := List.pairwise_cons.1 htail
  have hpos : 0 < 2 ^ (k - l) := Nat.two_pow_pos _
  simp only [List.map_cons, List.sum_cons] at hkraft
  have hl' : 1 ≤ l' := by
    by_contra hzero
    rw [show k - l' = k by omega] at hkraft
    omega
  refine ⟨hlongest l' List.mem_cons_self, hl', hrest.orderedInsert _ _, ?_⟩
  have hdvd : 2 ^ (k - l') ∣ (ls.map fun l => 2 ^ (k - l)).sum :=
    List.dvd_sum (List.forall_mem_map.2 fun j hj => Nat.pow_dvd_pow 2 (Nat.sub_le_sub_left (hshorter j hj) k))
  have hroom : 2 ^ (k - l') + (2 ^ (k - l') + (ls.map fun l => 2 ^ (k - l)).sum) ≤ 2 ^ k :=
    Nat.le_of_lt_add_of_dvd (by omega) ((dvd_refl _).add ((dvd_refl _).add hdvd)) (Nat.pow_dvd_pow 2 (Nat.sub_le k l'))
  have hshare : 2 ^ (k - (l' - 1)) ≤ 2 * 2 ^ (k - l') := by
    rw [← Nat.pow_succ']
    exact Nat.pow_le_pow_right Nat.two_pos (by omega)
  rw [((List.perm_orderedInsert _ _ ls).map _).sum_eq, List.map_cons, List.sum_cons]
  omega

end Lengths

section MergeCost

variable {f : Nat → Nat}

/-- The bits that the paths of a tree take for symbols that occur as often as `f` says. -/
def CodeTree.codedBits (f : Nat → Nat) (t : CodeTree) : Nat := ((t.paths []).map fun p => f p.1 * p.2.length).sum

/-- How often the symbols of a tree occur. -/
def CodeTree.occurrences (f : Nat → Nat) (t : CodeTree) : Nat := (t.symbols.map f).sum

theorem CodeTree.sum_paths (t : CodeTree) (b : Bool) :
    ((t.paths [b]).map fun p => f p.1 * p.2.length).sum = t.occurrences f + t.codedBits f := by
  rw [CodeTree.paths_eq_map, CodeTree.occurrences, CodeTree.codedBits, ← CodeTree.map_fst_paths t [], List.map_map, List.map_map,
    ← List.sum_map_add]
  congr 2
  funext p
  simp [Nat.mul_add, Nat.add_comm]

/-- A node puts one bit before every path of its branches (R113). -/
theorem CodeTree.codedBits_node (z o : CodeTree) (n : Nat) :
    (CodeTree.node z o n).codedBits f = z.codedBits f + o.codedBits f + (z.occurrences f + o.occurrences f) := by
  rw [CodeTree.codedBits, CodeTree.paths, List.map_append, List.sum_append]
  simp only [List.nil_append, CodeTree.sum_paths]
  omega

/-- The frequencies of a pool's trees. -/
def poolFreqs (pool : List PoolEntry) : List Nat := pool.map fun e => e.tree.freq

@[simp] theorem poolFreqs_cons (e : PoolEntry) (pool : List PoolEntry) : poolFreqs (e :: pool) = e.tree.freq :: poolFreqs pool := rfl

/-- The bits that the paths of a pool's trees take. -/
def poolBits (f : Nat → Nat) (pool : List PoolEntry) : Nat := (pool.map fun e => e.tree.codedBits f).sum

@[simp] theorem poolBits_cons (e : PoolEntry) (pool : List PoolEntry) : poolBits f (e :: pool) = e.tree.codedBits f + poolBits f pool := rfl

theorem poolBits_insertEntry (e : PoolEntry) (pool : List PoolEntry) :
    poolBits f (insertEntry e pool) = e.tree.codedBits f + poolBits f pool :=
  ((insertEntry_perm e pool).map fun e : PoolEntry => e.tree.codedBits f).sum_eq

/-- A pool in the order of its frequencies, each of which says how often the symbols of its tree occur (R108, R109). -/
structure PoolWeighed (f : Nat → Nat) (pool : List PoolEntry) : Prop where
  sorted : (poolFreqs pool).Pairwise (· ≤ ·)
  weight : ∀ e ∈ pool, e.tree.freq = e.tree.occurrences f

theorem PoolEntry.freq_le_of_before {e e' : PoolEntry} (h : e.before e' = true) : e.tree.freq ≤ e'.tree.freq := by
  simp only [PoolEntry.before, Bool.or_eq_true, decide_eq_true_eq, Bool.and_eq_true, beq_iff_eq] at h
  omega

theorem PoolEntry.freq_le_of_not_before {e e' : PoolEntry} (h : ¬ e.before e' = true) : e'.tree.freq ≤ e.tree.freq := by
  simp only [PoolEntry.before, Bool.or_eq_true, decide_eq_true_eq, Bool.and_eq_true, beq_iff_eq] at h
  omega

theorem poolFreqs_insertEntry (e : PoolEntry) {pool : List PoolEntry} (h : (poolFreqs pool).Pairwise (· ≤ ·)) :
    poolFreqs (insertEntry e pool) = (poolFreqs pool).orderedInsert (· ≤ ·) e.tree.freq := by
  induction pool with
  | nil => rfl
  | cons g pool ih =>
    rw [insertEntry]
    split_ifs with hbefore
    · exact (List.orderedInsert_cons_of_le (· ≤ ·) _ (PoolEntry.freq_le_of_before hbefore)).symm
    · have hle := PoolEntry.freq_le_of_not_before hbefore
      rw [poolFreqs_cons, ih h.of_cons, poolFreqs_cons, List.orderedInsert_cons]
      split_ifs with hge
      · rw [Nat.le_antisymm hge hle]
        exact congrArg _ (orderedInsert_of_sorted h)
      · rfl

theorem PoolWeighed.tail {e : PoolEntry} {pool : List PoolEntry} (h : PoolWeighed f (e :: pool)) : PoolWeighed f pool where
  sorted := h.sorted.of_cons
  weight := (List.forall_mem_cons.1 h.weight).2

theorem PoolWeighed.insert {e : PoolEntry} {pool : List PoolEntry} (h : PoolWeighed f pool) (he : e.tree.freq = e.tree.occurrences f) :
    PoolWeighed f (insertEntry e pool) where
  sorted := by rw [poolFreqs_insertEntry e h.sorted]; exact h.sorted.orderedInsert _ _
  weight := fun e' he' => by
    rcases List.mem_cons.1 ((insertEntry_perm e pool).mem_iff.1 he') with rfl | hmem
    · exact he
    · exact h.weight e' hmem

section Merge

variable {alphabet k m l l' : Nat} {a b : PoolEntry} {pool : List PoolEntry} {ls : List Nat}

@[simp] theorem mergedEntry_freq : (mergedEntry alphabet k a b).tree.freq = a.tree.freq + b.tree.freq := rfl

theorem mergedEntry_occurrences :
    (mergedEntry alphabet k a b).tree.occurrences f = a.tree.occurrences f + b.tree.occurrences f := by
  simp [mergedEntry, CodeTree.occurrences, CodeTree.symbols]

theorem PoolWeighed.merge (h : PoolWeighed f (a :: b :: pool)) : PoolWeighed f (insertEntry (mergedEntry alphabet k a b) pool) := by
  refine h.tail.tail.insert ?_
  rw [mergedEntry_occurrences, mergedEntry_freq, h.weight a (by simp), h.weight b (by simp)]

/-- The two least entries may take the two longest lengths, the longer cut to the shorter; their merge costs one bit for each of their
occurrences, which is what the merged entry saves with a length of one bit less. -/
theorem PoolWeighed.merge_bits_le (h : PoolWeighed f (a :: b :: pool)) (hls : KraftLengths m (l :: l' :: ls))
    (hlen : pool.length = ls.length) :
    poolBits f (insertEntry (mergedEntry alphabet k a b) pool) +
        weightedLength (poolFreqs (insertEntry (mergedEntry alphabet k a b) pool)) (ls.orderedInsert (· ≥ ·) (l' - 1)) ≤
      poolBits f (a :: b :: pool) + weightedLength (poolFreqs (a :: b :: pool)) (l :: l' :: ls) := by
  obtain ⟨hll, hpos, -⟩ := hls.merge
  have hbits : (mergedEntry alphabet k a b).tree.codedBits f =
      a.tree.codedBits f + b.tree.codedBits f + (a.tree.freq + b.tree.freq) := by
    rw [mergedEntry, CodeTree.codedBits_node, h.weight a (by simp), h.weight b (by simp)]
  have hcut : (a.tree.freq + b.tree.freq) * (l' - 1) + (a.tree.freq + b.tree.freq) ≤ a.tree.freq * l + b.tree.freq * l' := by
    rw [← Nat.mul_succ, Nat.succ_eq_add_one, Nat.sub_add_cancel hpos, Nat.add_mul]
    exact Nat.add_le_add_right (Nat.mul_le_mul_left _ hll) _
  have hpair := weightedLength_orderedInsert_le h.tail.tail.sorted hls.sorted.of_cons.of_cons (by simpa [poolFreqs] using hlen)
    (a.tree.freq + b.tree.freq) (l' - 1)
  rw [poolFreqs_insertEntry _ h.tail.tail.sorted, poolBits_insertEntry, hbits, mergedEntry_freq]
  simp only [poolBits_cons, poolFreqs_cons, weightedLength_cons]
  omega

end Merge

/-- The merge loop's tree costs no more than the trees of the pool with codes of any lengths that meet the Kraft inequality before them. -/
theorem mergeLoop_codedBits_le {alphabet bound k m : Nat} {pool : List PoolEntry} {ls : List Nat} {t : CodeTree}
    (hpool : PoolWeighed f pool) (hls : KraftLengths m ls) (hlen : pool.length = ls.length)
    (ht : mergeLoop alphabet bound k pool = some t) :
    t.codedBits f ≤ poolBits f pool + weightedLength (poolFreqs pool) ls := by
  induction bound generalizing k pool ls with
  | zero =>
    match pool, ht with
    | [e], ht => cases ht; exact Nat.le_add_right_of_le (Nat.le_add_right ..)
  | succ bound ih =>
    match pool, ls, hls, ht with
    | [e], _, _, ht => cases ht; exact Nat.le_add_right_of_le (Nat.le_add_right ..)
    | a :: b :: pool, l :: l' :: ls, hls, ht =>
      obtain ⟨-, -, hmerged⟩ := hls.merge
      have htail : pool.length = ls.length := by simpa using hlen
      rw [mergeLoop_merge] at ht
      have hrest := ih hpool.merge hmerged (by rw [(insertEntry_perm _ pool).length_eq, List.orderedInsert_length, ← htail]; rfl) ht
      exact hrest.trans (hpool.merge_bits_le hls htail)

end MergeCost

end Sys2Proof.Machine
end

section
/-! SUPPORT. ENCODE with the table compiled from its sequence (44_encoder.md R138). -/

namespace Sys2Proof.Machine

open Sys2Proof.Claims

section LeafPool

variable {f : Nat → Nat} {table : List (Nat × Nat)}

/-- The pool's entry of one symbol of a frequency table (42_table_compiler.md R108, R109). -/
def leafEntry (p : Nat × Nat) : PoolEntry := { ord := p.1, tree := .leaf p.1 p.2 }

theorem leafPool_cons (p : Nat × Nat) (table : List (Nat × Nat)) : leafPool (p :: table) = insertEntry (leafEntry p) (leafPool table) := rfl

theorem leafPool_perm (table : List (Nat × Nat)) : (leafPool table).Perm (table.map leafEntry) := by
  induction table with
  | nil => exact .refl _
  | cons p table ih => exact (insertEntry_perm _ _).trans (ih.cons _)

theorem leafPool_weighed (h : ∀ p ∈ table, p.2 = f p.1) : PoolWeighed f (leafPool table) := by
  induction table with
  | nil => exact ⟨List.Pairwise.nil, fun _ he => absurd he List.not_mem_nil⟩
  | cons p table ih =>
    obtain ⟨hp, htable⟩ := List.forall_mem_cons.1 h
    exact (ih htable).insert hp

/-- A leaf takes no bit. -/
theorem poolBits_leafPool (table : List (Nat × Nat)) : poolBits f (leafPool table) = 0 := by
  induction table with
  | nil => rfl
  | cons p table ih => rw [leafPool_cons, poolBits_insertEntry, ih]; rfl

theorem sum_poolFreqs_leafPool (table : List (Nat × Nat)) : (poolFreqs (leafPool table)).sum = (table.map Prod.snd).sum := by
  rw [poolFreqs, ((leafPool_perm table).map _).sum_eq, List.map_map]
  rfl

/-- A tree of at most `2 ^ w` symbols takes at most `w` bits an occurrence, as a code of `w` bits for every symbol does. -/
theorem buildTree_codedBits_le {c : Config} {t : CodeTree} {w : Nat} (ht : buildTree c table = some t) (htable : ∀ p ∈ table, p.2 = f p.1)
    (hsize : table.length ≤ 2 ^ w) : t.codedBits f ≤ (table.map Prod.snd).sum * w := by
  have hlen : (poolFreqs (leafPool table)).length = table.length := by rw [poolFreqs, List.length_map, leafPool_length]
  have hbits := mergeLoop_codedBits_le (leafPool_weighed htable) (kraftLengths_replicate hsize)
    (by rw [leafPool_length, List.length_replicate]) ht
  rwa [← hlen, weightedLength_replicate, sum_poolFreqs_leafPool, poolBits_leafPool, Nat.zero_add] at hbits

end LeafPool

section CodedLength

variable {c : Config} {seq : List Nat}

/-- A sum over a sequence, taken symbol by symbol. -/
theorem sum_map_eq_sum_count {ks : List Nat} (hnodup : ks.Nodup) (hmem : ∀ x, x ∈ ks ↔ x ∈ seq) (g : Nat → Nat) :
    (seq.map g).sum = (ks.map fun x => seq.count x * g x).sum := by
  have hset : seq.toFinset = ks.toFinset := by ext x; simp [hmem]
  rw [Finset.sum_list_map_count, hset, List.sum_toFinset _ hnodup]
  rfl

theorem sum_counts_countFrequencies (seq : List Nat) : ((countFrequencies seq).map Prod.snd).sum = seq.length := by
  have hcounts : (countFrequencies seq).map Prod.snd = ((countFrequencies seq).map Prod.fst).map fun x => seq.count x * 1 := by
    rw [List.map_map]
    exact List.map_congr_left fun p hp => (mem_countFrequencies_iff.1 hp).2.trans (Nat.mul_one _).symm
  rw [hcounts, ← sum_map_eq_sum_count (nodup_keys_countFrequencies seq) (fun x => mem_keys_countFrequencies_iff) fun _ => 1]
  simp

/-- The code that the compiled table gives a symbol of its sequence. -/
theorem codeFor_compiledCodes {x : Nat} (hx : x ∈ seq) :
    (x, (codeFor (compiledCodes c seq) x).getD []) ∈ compiledCodes c seq := by
  obtain ⟨p, hp, rfl⟩ := List.mem_map.1 (mem_keys_compiledCodes_iff (c := c).2 hx)
  rwa [codeFor_of_mem (nodup_keys_compiledCodes c seq) hp, Option.getD_some]

theorem codedLength_eq_sum_count (c : Config) (seq : List Nat) :
    codedLength c seq = ((compiledCodes c seq).map fun p => seq.count p.1 * p.2.length).sum := by
  rw [codedLength, sum_map_eq_sum_count (nodup_keys_compiledCodes c seq) (fun x => mem_keys_compiledCodes_iff), List.map_map]
  congr 1
  refine List.map_congr_left fun p hp => ?_
  rw [Function.comp_apply, codeFor_of_mem (nodup_keys_compiledCodes c seq) hp, Option.getD_some]

/-- R138: the encoded sequence takes at most SYM_W bits a symbol. A tree with two or more leaves is no worse than the fixed width, and a single
leaf has a code of one bit. -/
theorem codedLength_le (hc : c.wf) (hseq : InAlphabet c seq) : codedLength c seq ≤ seq.length * c.symW := by
  rcases eq_or_ne seq [] with rfl | hne
  · exact Nat.zero_le _
  obtain ⟨t, ht, -, -⟩ := buildTree_countFrequencies hne hseq
  have hbits := buildTree_codedBits_le (f := seq.count) ht (fun p hp => (mem_countFrequencies_iff.1 hp).2) (countFrequencies_length_le hseq)
  rw [sum_counts_countFrequencies] at hbits
  cases t with
  | node z o n => rwa [codedLength_eq_sum_count, compiledCodes, ht]
  | leaf x n =>
    have hone : codedLength c seq = seq.count x := by
      rw [codedLength_eq_sum_count, compiledCodes, ht]
      simp [generateCodes]
    exact hone.trans_le (List.count_le_length.trans (Nat.le_mul_of_pos_right _ hc.1.1))

/-- Settles O59: the loaded LUT gives every symbol of the sequence its code, so ENCODE packs the codes, whose total fits. -/
theorem encodeWithCompiledTableSucceeds : Obligations.EncodeWithCompiledTableSucceeds := by
  intro s seq im hc hseq him hlut hread hlen hn hcap
  have htotal := codedLength_le hc hseq
  have hcodes : List.Forall₂ (HasCode s) (seq.map (BitVec.ofNat 8))
      (seq.map fun x => (codeFor (compiledCodes s.cfg seq) x).getD []) := by
    rw [List.forall₂_map_left_iff, List.forall₂_map_right_iff, List.forall₂_same]
    exact fun x hx => (compiledLutGivesTheCodes s seq im hc hseq him hlut).1 _ (codeFor_compiledCodes hx)
  have hbits : (seq.map fun x => (codeFor (compiledCodes s.cfg seq) x).getD []).flatten.length = codedLength s.cfg seq := by
    rw [List.length_flatten, List.map_map, codedLength]
    rfl
  obtain ⟨t, ht, hstate, -, -⟩ := encodePacksTheCodes s _ _ _ (by rw [hlen, List.length_map]) (by rwa [List.length_map]) hread hcodes rfl
    (hbits.trans_le (htotal.trans hcap))
  have hbitlen : t.encBitlen.toNat = codedLength s.cfg seq := by
    rw [hstate, hbits]
    exact toNat_bitCount hc (htotal.trans hcap)
  exact ⟨t, ht, by rw [hstate]; rfl, by rw [hstate]; rfl, by rw [hstate]; rfl, hbitlen, hbitlen ▸ htotal⟩

end CodedLength

end Sys2Proof.Machine
end

section
/-! SUPPORT. The walk of DECODE (45_decoder.md R145 to R148, R150): one iteration at each kind of child and where it stops, and the walk along the
paths of the tree that the stream holds. -/

namespace Sys2Proof.Machine

open Sys2Proof.Claims

section StreamBits

variable {s : State} {p : Nat} {b : Bool} {bits more : List Bool}

/-- The bits of the stream from position `p` up begin with `bits`. -/
def StreamFrom (s : State) (p : Nat) (bits : List Bool) : Prop :=
  ∀ j, j < bits.length → BitAt s.bitbuf (p + j) (bits.getD j false)

theorem streamFrom_of_streamHolds (h : StreamHolds s bits) : StreamFrom s 0 bits := fun j hj => by
  rw [Nat.zero_add]; exact h j hj

theorem StreamFrom.head (h : StreamFrom s p (b :: bits)) : BitAt s.bitbuf p b := h 0 (Nat.succ_pos _)

theorem StreamFrom.tail (h : StreamFrom s p (b :: bits)) : StreamFrom s (p + 1) bits := fun j hj => by
  rw [Nat.add_assoc, Nat.add_comm 1]; exact h (j + 1) (Nat.succ_lt_succ hj)

theorem StreamFrom.append_left (h : StreamFrom s p (bits ++ more)) : StreamFrom s p bits := fun j hj => by
  rw [← List.getD_append bits more false j hj]
  exact h j (by rw [List.length_append]; omega)

theorem StreamFrom.append_right (h : StreamFrom s p (bits ++ more)) : StreamFrom s (p + bits.length) more := fun j hj => by
  have hbit := h (bits.length + j) (by rw [List.length_append]; omega)
  rwa [List.getD_append_right _ _ _ _ (Nat.le_add_right ..), Nat.add_sub_cancel_left, ← Nat.add_assoc] at hbit

end StreamBits

variable {s : State} {root cur stop : NodeIx} {n nbits p bound : Nat} {xs ys : List Sym} {x : Sym} {b : Bool} {node child : Node}
  {bits front : List Bool} {codes : List (List Bool)} {e : Stop}

/-- The walk at node `cur`, with the symbols `xs` emitted and `p` of `nbits` bits used (R145). -/
def walkAt (nbits : Nat) (cur : NodeIx) (xs : List Sym) (p : Nat) : Walk :=
  { cur := cur, k := xs.length, up := { rpos := p, limit := nbits }, symOut := xs }

theorem walkBegin_eq_walkAt (root : NodeIx) (nbits : Nat) : walkBegin root nbits = walkAt nbits root [] 0 := rfl

section Iteration

theorem State.walkStep_exhausted (hp : nbits ≤ p) :
    s.walkStep root (walkAt nbits cur xs p) = .error (.raise .exhausted (countInfo xs.length)) := by
  rw [State.walkStep, State.unpackBit_at_limit (u := (walkAt nbits cur xs p).up) hp]
  rfl

theorem State.unpackBit_unwritten {u : Unpacker} (hlt : u.rpos < u.limit) (hread : Memory.read s.bitbuf (u.rpos / 8) = none) :
    s.unpackBit u = .error (.uninitRead (.bitbuf (u.rpos / 8))) := by
  rw [State.unpackBit_eq, if_neg (Nat.not_le.2 hlt), streamBitAt, hread]
  rfl

theorem State.walkStep_unwritten (hp : p < nbits) (hread : Memory.read s.bitbuf (p / 8) = none) :
    s.walkStep root (walkAt nbits cur xs p) = .error (.fault (.uninitRead (.bitbuf (p / 8)))) := by
  rw [State.walkStep, State.unpackBit_unwritten (u := (walkAt nbits cur xs p).up) hp hread]
  rfl

theorem State.walkStep_of_bit (hp : p < nbits) (hb : BitAt s.bitbuf p b) :
    s.walkStep root (walkAt nbits cur xs p) =
      s.walkMove root (walkAt nbits cur xs p) b { rpos := p + 1, limit := nbits } := by
  rw [State.walkStep, State.unpackBit_of_bitAt (u := (walkAt nbits cur xs p).up) hp hb]
  rfl

variable {up : Unpacker} {w : Walk}

theorem State.walkMove_outOfRange (hnode : Memory.read s.rom w.cur.toNat = some node) (hchild : s.cfg.nodes ≤ (node.child b).toNat) :
    s.walkMove root w b up = .error (.raise .romRange (romInfo (node.child b) w.k)) := by
  rw [State.walkMove, State.readRom, engineRead_of_written hnode]
  exact if_pos hchild

theorem State.walkMove_unwritten (hnode : Memory.read s.rom w.cur.toNat = some node) (hlt : (node.child b).toNat < s.cfg.nodes)
    (hchild : Memory.read s.rom (node.child b).toNat = none) :
    s.walkMove root w b up = .error (.fault (.uninitRead (.rom (node.child b).toNat))) := by
  rw [State.walkMove, State.readRom, engineRead_of_written hnode]
  dsimp only
  rw [if_neg (Nat.not_le.2 hlt), State.readRom, engineRead_of_unwritten hchild]

/-- A child in range is visited: a leaf emits its symbol, and an internal node becomes the current one. -/
theorem State.walkMove_visit (hnode : Memory.read s.rom w.cur.toNat = some node) (hlt : (node.child b).toNat < s.cfg.nodes)
    (hchild : Memory.read s.rom (node.child b).toNat = some child) :
    s.walkMove root w b up = .ok (if child.leaf then
        { cur := root, k := w.k + 1, up := up, symOut := w.symOut ++ [child.sym s.cfg] }
      else { w with cur := node.child b, up := up }) := by
  rw [State.walkMove, State.readRom, engineRead_of_written hnode]
  dsimp only
  rw [if_neg (Nat.not_le.2 hlt), State.readRom, engineRead_of_written hchild]
  dsimp only
  split_ifs <;> rfl

end Iteration

section Paths

theorem State.walk_of_step {w w' : Walk} (hk : w.k < n) (h : s.walkStep root w = .ok w') :
    s.walk root n (bound + 1) w = s.walk root n bound w' := by
  rw [State.walk_succ bound hk, h]

theorem State.walk_of_stop {w : Walk} (hk : w.k < n) (h : s.walkStep root w = .error e) : s.walk root n (bound + 1) w = .error e := by
  rw [State.walk_succ bound hk, h]

/-- The walk passes over internal nodes, one bit for each of them. -/
theorem State.walk_internalPath (hxs : xs.length < n) (hpath : InternalPath s cur bits stop) (hbits : StreamFrom s p bits)
    (hlimit : p + bits.length ≤ nbits) :
    s.walk root n (bound + bits.length) (walkAt nbits cur xs p) = s.walk root n bound (walkAt nbits stop xs (p + bits.length)) := by
  induction bits generalizing cur p with
  | nil => cases hpath; rfl
  | cons b bits ih =>
    obtain ⟨node, child, hnode, hlt, hchild, hinternal, hrest⟩ := hpath
    rw [List.length_cons] at hlimit
    have hstep : s.walkStep root (walkAt nbits cur xs p) = .ok (walkAt nbits (node.child b) xs (p + 1)) := by
      rw [State.walkStep_of_bit (by omega) hbits.head, State.walkMove_visit hnode hlt hchild, hinternal]
      rfl
    rw [List.length_cons, ← Nat.add_assoc bound, State.walk_of_step hxs hstep, ih hrest hbits.tail (by omega), Nat.add_assoc p, Nat.add_comm 1]

/-- The walk along a leaf's path emits its symbol and is back at the root. -/
theorem State.walk_leafPath (hxs : xs.length < n) (hpath : LeafPath s cur bits x) (hbits : StreamFrom s p bits)
    (hlimit : p + bits.length ≤ nbits) :
    s.walk root n (bound + bits.length) (walkAt nbits cur xs p) =
      s.walk root n bound (walkAt nbits root (xs ++ [x]) (p + bits.length)) := by
  obtain ⟨front, b, stop, node, child, rfl, hfront, hnode, hlt, hchild, hleaf, rfl⟩ := hpath
  rw [List.length_append, List.length_singleton] at hlimit ⊢
  have hstep : s.walkStep root (walkAt nbits stop xs (p + front.length)) =
      .ok (walkAt nbits root (xs ++ [child.sym s.cfg]) (p + front.length + 1)) := by
    rw [State.walkStep_of_bit (by omega) hbits.append_right.head, State.walkMove_visit hnode hlt hchild, hleaf, walkAt, walkAt,
      List.length_append]
    rfl
  rw [Nat.add_comm front.length, ← Nat.add_assoc, State.walk_internalPath hxs hfront hbits.append_left (by omega),
    State.walk_of_step hxs hstep, Nat.add_assoc, Nat.add_comm 1]

/-- The walk along leaf after leaf emits their symbols in order. -/
theorem State.walk_leafPaths (hpaths : List.Forall₂ (LeafPath s root) codes ys) (hn : xs.length + ys.length ≤ n)
    (hbits : StreamFrom s p codes.flatten) (hlimit : p + codes.flatten.length ≤ nbits) :
    s.walk root n (bound + codes.flatten.length) (walkAt nbits root xs p) =
      s.walk root n bound (walkAt nbits root (xs ++ ys) (p + codes.flatten.length)) := by
  induction hpaths generalizing xs p with
  | nil => simp
  | @cons code y codes ys hpath _ ih =>
    rw [List.flatten_cons] at hbits hlimit ⊢
    rw [List.length_append] at hlimit ⊢
    rw [List.length_cons] at hn
    rw [Nat.add_comm code.length, ← Nat.add_assoc, State.walk_leafPath (by omega) hpath hbits.append_left (by omega),
      ih (by rw [List.length_append, List.length_singleton]; omega) hbits.append_right (by omega), List.append_assoc, Nat.add_assoc,
      Nat.add_comm codes.flatten.length]
    rfl

end Paths

section Run

/-- What the register checks of DECODE leave to the tree (R140 to R143, R147). -/
theorem State.decodeRun_of_checks (hpos : 1 ≤ s.decNsym.toNat) (hn : s.decNsym.toNat ≤ s.cfg.symCap)
    (hbits : s.decNbits.toNat ≤ 8 * s.cfg.byteCap) (hvalid : s.treeValid = true) :
    s.decodeRun = if s.cfg.nodes ≤ s.treeRoot.toNat then .error (.raise .romRange (romInfo s.treeRoot 0))
      else s.decodeTree s.treeRoot s.decNsym.toNat s.decNbits.toNat := by
  rw [State.decodeRun, if_neg (by omega), if_neg (by omega), if_neg (by omega), if_neg (by simp [hvalid])]

/-- With the registers in range and an internal root, the run is the walk's (R145, R148). -/
theorem State.decodeRun_of_walkReady (h : WalkReady s) :
    s.decodeRun = (s.walk s.treeRoot s.decNsym.toNat (s.decNbits.toNat + 1) (walkAt s.decNbits.toNat s.treeRoot [] 0)).map
      fun w => { syms := w.symOut, bitsUsed := w.up.rpos } := by
  obtain ⟨hpos, hn, hbits, hvalid, hroot, r, hread, hinternal⟩ := h
  rw [State.decodeRun_of_checks hpos hn hbits hvalid, if_neg (Nat.not_le.2 hroot), State.decodeTree, State.readRom,
    engineRead_of_written hread]
  dsimp only
  rw [if_neg (by simp [hinternal]), walkBegin_eq_walkAt]
  cases s.walk s.treeRoot s.decNsym.toNat (s.decNbits.toNat + 1) (walkAt s.decNbits.toNat s.treeRoot [] 0) <;> rfl

/-- A stream that begins with the paths of all the leaves asked for is decoded to their symbols (R148). -/
theorem State.decodeRun_of_paths (hready : WalkReady s) (hn : xs.length = s.decNsym.toNat)
    (hpaths : List.Forall₂ (LeafPath s s.treeRoot) codes xs) (hlimit : codes.flatten.length ≤ s.decNbits.toNat)
    (hbits : StreamFrom s 0 codes.flatten) : s.decodeRun = .ok { syms := xs, bitsUsed := codes.flatten.length } := by
  obtain ⟨bound, hbound⟩ : ∃ bound, s.decNbits.toNat + 1 = bound + codes.flatten.length :=
    ⟨s.decNbits.toNat + 1 - codes.flatten.length, by omega⟩
  rw [State.decodeRun_of_walkReady hready, hbound, State.walk_leafPaths hpaths (by simp [hn]) hbits (by omega), List.nil_append, Nat.zero_add,
    State.walk_done _ hn.ge]
  rfl

/-- Where the walk stands at an internal node, short of the symbols asked for, and its next iteration stops, DECODE stops there. -/
theorem State.decodeRun_of_stop (hready : WalkReady s) (hxs : xs.length < s.decNsym.toNat)
    (hpaths : List.Forall₂ (LeafPath s s.treeRoot) codes xs) (hfront : InternalPath s s.treeRoot front stop)
    (hlimit : (codes.flatten ++ front).length ≤ s.decNbits.toNat) (hbits : StreamFrom s 0 (codes.flatten ++ front))
    (hstop : s.walkStep s.treeRoot (walkAt s.decNbits.toNat stop xs (codes.flatten ++ front).length) = .error e) :
    s.decodeRun = .error e := by
  rw [List.length_append] at hlimit hstop
  have hleaves := hbits.append_left
  have hnodes := hbits.append_right
  rw [Nat.zero_add] at hnodes
  obtain ⟨bound, hbound⟩ : ∃ bound, s.decNbits.toNat + 1 = bound + 1 + front.length + codes.flatten.length :=
    ⟨s.decNbits.toNat - front.length - codes.flatten.length, by omega⟩
  rw [State.decodeRun_of_walkReady hready, hbound, State.walk_leafPaths hpaths (by simpa using hxs.le) hleaves (by omega), List.nil_append,
    Nat.zero_add, State.walk_internalPath hxs hfront hnodes hlimit, State.walk_of_stop hxs hstop]
  rfl

theorem execDecode_of_ok {r : DecodeResult} (h : s.decodeRun = .ok r) : execDecode s = .next (s.commitDecode r) := by
  rw [execDecode, h]

theorem execDecode_of_raise {c : Cause} {info : Word} (h : s.decodeRun = .error (.raise c info)) :
    execDecode s = .next (decodeFailed s c info) := by
  rw [execDecode, h]; rfl

theorem execDecode_of_fault {f : Fault} (h : s.decodeRun = .error (.fault f)) : execDecode s = .next (s.faultDecode f) := by
  rw [execDecode, h]

end Run

end Sys2Proof.Machine
end

section
/-! SUPPORT. What DECODE does, however its run ends (45_decoder.md R140 to R150). -/

namespace Sys2Proof.Machine

open Sys2Proof.Claims

variable {s : State}

section Success

/-- The commit writes the symbols from index 0 up and no other cell (R149). -/
theorem State.read_commitDecode_symbuf (s : State) (r : DecodeResult) (k : Nat) :
    Memory.read (s.commitDecode r).symbuf k = if k < r.syms.length then r.syms[k]? else Memory.read s.symbuf k := by
  simp [Memory.read_writeFrom]

/-- Settles O45: the leaf at the root is emitted as often as asked for, and nothing else is read. -/
theorem decodeOfADegenerateTree : Obligations.DecodeOfADegenerateTree := by
  intro s root hpos hn hbits hvalid hroot hread hleaf
  have hrun : s.decodeRun = .ok { syms := List.replicate s.decNsym.toNat (root.sym s.cfg), bitsUsed := 0 } := by
    rw [State.decodeRun_of_checks hpos hn hbits hvalid, if_neg (Nat.not_le.2 hroot), State.decodeTree, State.readRom,
      engineRead_of_written hread]
    exact if_pos hleaf
  refine ⟨_, execDecode_of_ok hrun, rfl, fun k hk => ?_, fun k hk => ?_⟩ <;> rw [State.read_commitDecode_symbuf, List.length_replicate]
  · rw [if_pos hk, List.getElem?_replicate_of_lt hk]
  · rw [if_neg (Nat.not_lt.2 hk)]

/-- Settles O46: the walk emits the leaves' symbols, and the commit writes them. -/
theorem decodeWalksTheTree : Obligations.DecodeWalksTheTree := by
  intro s xs codes hready hn hpaths hlimit hbits
  have hrun := State.decodeRun_of_paths hready hn hpaths hlimit (streamFrom_of_streamHolds hbits)
  refine ⟨_, execDecode_of_ok hrun, rfl, fun k hk => ?_, fun k hk => ?_⟩ <;> rw [State.read_commitDecode_symbuf]
  · exact if_pos hk
  · exact if_neg (Nat.not_lt.2 hk)

end Success

section Failure

/-- Settles O44: the four checks, each reached behind the ones before it. -/
theorem decodeChecksItsRegisters : Obligations.DecodeChecksItsRegisters := by
  rintro s n nbits rfl rfl
  refine ⟨fun hn => execDecode_of_raise ?_, fun hn hbits => execDecode_of_raise ?_, fun hn hbits => ?_,
    fun hpos hn hbits hvalid => execDecode_of_raise ?_⟩
  · exact if_pos hn
  · rw [State.decodeRun, if_neg (Nat.not_lt.2 hn), if_pos hbits]; rfl
  · refine execDecode_of_ok (r := { syms := [], bitsUsed := 0 }) ?_
    rw [State.decodeRun, if_neg (by omega), if_neg (Nat.not_lt.2 hbits), if_pos hn]
  · rw [State.decodeRun, if_neg (Nat.not_lt.2 hn), if_neg (Nat.not_lt.2 hbits), if_neg (by omega), if_pos hvalid]

/-- Settles O47: the walk stands at the node with no bit left, so its next iteration is the failure. -/
theorem decodeFailsWhenBitsRunOut : Obligations.DecodeFailsWhenBitsRunOut :=
  fun _ _ _ _ _ hready hxs hpaths hfront hlen hbits =>
    execDecode_of_raise (State.decodeRun_of_stop hready hxs hpaths hfront hlen.le (streamFrom_of_streamHolds hbits)
      (State.walkStep_exhausted hlen.ge))

/-- Settles O48: the root's index is checked before the walk, and a child's index in the iteration that is about to visit it. -/
theorem decodeFailsOnAnIndexOutOfRange : Obligations.DecodeFailsOnAnIndexOutOfRange := by
  intro s
  refine ⟨fun hpos hn hbits hvalid hroot => execDecode_of_raise ?_,
    fun xs codes front b stop node hready hxs hpaths hfront hlen hbits hnode hchild => execDecode_of_raise ?_⟩
  · rw [State.decodeRun_of_checks hpos hn hbits hvalid, if_pos hroot]; rfl
  · have hstream := streamFrom_of_streamHolds hbits
    have hbit := hstream.append_right.head
    rw [Nat.zero_add] at hbit
    refine State.decodeRun_of_stop hready hxs hpaths hfront hlen.le hstream.append_left ?_
    rw [State.walkStep_of_bit hlen hbit]
    exact State.walkMove_outOfRange hnode hchild

/-- A DECODE that raises the first model fault sets it, finishes its command and leaves its inputs (R150). -/
theorem execDecode_fault_frame {f : Fault} (hfree : s.modelFault = none) (hrun : s.decodeRun = .error (.fault f)) :
    ∃ t, exec .decode s = .next t ∧ t.pending = none ∧ t.modelFault = some f ∧ t.bitbuf = s.bitbuf ∧ t.rom = s.rom :=
  ⟨_, execDecode_of_fault hrun, rfl, by rw [State.faultDecode_modelFault, hfree], rfl, rfl⟩

/-- Settles O52: the root is read before the walk; in an iteration the bit is read, and then the cell of the child. -/
theorem decodeFaultsAtTheFirstUnwrittenCell : Obligations.DecodeFaultsAtTheFirstUnwrittenCell := by
  intro s hfree
  refine ⟨fun hpos hn hbits hvalid hroot hnone => execDecode_fault_frame hfree ?_,
    fun xs codes front stop hready hxs hpaths hfront hlen hbits => ⟨fun hnone => ?_, fun b node hbit hnode hlt hnone => ?_⟩⟩
  · rw [State.decodeRun_of_checks hpos hn hbits hvalid, if_neg (Nat.not_le.2 hroot), State.decodeTree, State.readRom,
      engineRead_of_unwritten hnone]
  · exact execDecode_fault_frame hfree (State.decodeRun_of_stop hready hxs hpaths hfront hlen.le (streamFrom_of_streamHolds hbits)
      (State.walkStep_unwritten hlen hnone))
  · refine execDecode_fault_frame hfree (State.decodeRun_of_stop hready hxs hpaths hfront hlen.le (streamFrom_of_streamHolds hbits) ?_)
    rw [State.walkStep_of_bit hlen hbit]
    exact State.walkMove_unwritten hnode hlt hnone

end Failure

section Frame

/-- A successful run stages no more symbols than asked for (R148). -/
theorem State.decodeRun_length_le {r : DecodeResult} (h : s.decodeRun = .ok r) : r.syms.length ≤ s.decNsym.toNat := by
  unfold State.decodeRun at h
  dsimp only at h
  split_ifs at h
  · cases h; exact Nat.zero_le _
  · exact (State.decodeTree_fits h).count

/-- Settles O49: a commit is no failure and writes no cell past the count, a failure writes none, and a model fault is excluded. -/
theorem decodeWritesOutputOnSuccessOnly : Obligations.DecodeWritesOutputOnSuccessOnly := by
  intro s t ht hfree
  rcases execDecode_cases s with ⟨r, hr, he⟩ | ⟨c, info, hr, he⟩ | ⟨f, -, he⟩ <;> cases he.symm.trans ht
  · have hlen := State.decodeRun_length_le hr
    refine ⟨fun hfail => absurd hfail (by simp), fun k hk => ?_⟩
    rw [State.read_commitDecode_symbuf, if_neg (by omega)]
  · exact ⟨fun _ => ⟨rfl, rfl, State.decodeRun_error_hasCause hr⟩, fun _ _ => rfl⟩
  · exact absurd hfree (s.not_faultFree_setModelFault f)

/-- Settles O50: the three ways DECODE ends write no input. -/
theorem decodeReadsItsInputsOnly : Obligations.DecodeReadsItsInputsOnly := by
  intro s t ht
  rcases execDecode_cases s with ⟨r, -, he⟩ | ⟨c, info, -, he⟩ | ⟨f, -, he⟩ <;> cases he.symm.trans ht <;>
    exact ⟨rfl, rfl, rfl, rfl, rfl, rfl, rfl, rfl, rfl, rfl, rfl, rfl, rfl, rfl, rfl, rfl⟩

end Frame

end Sys2Proof.Machine
end

section
/-! SUPPORT. The round trip with compiled tables (45_decoder.md R151): ENCODE leaves the codes of the sequence in BITBUF, and DECODE follows them in
the compiled tree. -/

namespace Sys2Proof.Machine

open Sys2Proof.Claims

section Codes

variable {c : Config} {seq : List Nat}

/-- The compiled codes of the sequence's symbols, in its order. -/
def codesOf (c : Config) (seq : List Nat) : List (List Bool) := seq.map fun x => (codeFor (compiledCodes c seq) x).getD []

theorem length_flatten_codesOf (c : Config) (seq : List Nat) : (codesOf c seq).flatten.length = codedLength c seq := by
  rw [codesOf, List.length_flatten, List.map_map, codedLength]
  rfl

/-- What holds of every symbol of the table and its code holds along the sequence. -/
theorem forall₂_codesOf {R : Sym → List Bool → Prop} (h : ∀ p ∈ compiledCodes c seq, R (BitVec.ofNat 8 p.1) p.2) :
    List.Forall₂ R (seq.map (BitVec.ofNat 8)) (codesOf c seq) := by
  rw [codesOf, List.forall₂_map_left_iff, List.forall₂_map_right_iff, List.forall₂_same]
  exact fun x hx => h _ (codeFor_compiledCodes hx)

end Codes

section Decoding

variable {s : State} {seq : List Nat} {im : Images}

/-- DECODE succeeds, leaves the symbols `xs` in SYMBUF and has used `used` bits. -/
def Decodes (s : State) (xs : List Sym) (used : Word) : Prop :=
  ∃ u, exec .decode s = .next u ∧ u.done = true ∧ u.fail = false ∧ SymbufHolds u xs ∧ u.decBitsUsed = used

variable (hc : s.cfg.wf) (hseq : InAlphabet s.cfg seq) (him : compile s.cfg seq = .ok im) (htree : TreeLoaded s im)
include hc hseq him htree

/-- With one distinct symbol, the tree is that symbol's leaf at the root (42_table_compiler.md R111, R115). -/
theorem leafLoaded_of_single {x : Nat} (hx : x ∈ seq) (hsame : ∀ y ∈ seq, y = x) :
    s.treeValid = true ∧ TreeAt s (.leaf x seq.length) s.treeRoot := by
  have halpha : x < s.cfg.alphabet := hseq x hx
  obtain ⟨-, im', him', hrom, hcfg⟩ := (compileOfDegenerateSequences s.cfg hc).2 x seq.length halpha (List.length_pos_of_mem hx)
  rw [← List.eq_replicate_length.2 hsame] at him'
  cases him'.symm.trans him
  obtain ⟨hread, hvalid, hroot⟩ := htree
  rw [hcfg] at hvalid hroot
  rw [hrom] at hread
  have hleaf : TreeAt s (.leaf x seq.length) 0 := treeAt_of_romHolds (next := 0) hc (List.forall_mem_singleton.2 halpha)
    (by change 1 ≤ 2 * s.cfg.alphabet - 1; omega) fun i hi => (Nat.zero_add i).symm ▸ hread i hi
  exact ⟨hvalid, hroot ▸ hleaf⟩

variable (hlen : s.decNsym.toNat = seq.length) (hn : seq.length ≤ s.cfg.symCap) (hnbits : s.decNbits.toNat ≤ 8 * s.cfg.byteCap)
include hlen hn hnbits

/-- With one distinct symbol, DECODE emits the leaf at the root and reads no bit (R144). -/
theorem decodes_of_single (hne : seq ≠ []) (hsame : ∀ x ∈ seq, ∀ y ∈ seq, x = y) : Decodes s (seq.map (BitVec.ofNat 8)) 0 := by
  obtain ⟨x, hx⟩ := List.exists_mem_of_ne_nil seq hne
  have hsingle : ∀ y ∈ seq, y = x := fun y hy => hsame y hy x hx
  obtain ⟨hvalid, hroot, root, hnode, hleaf, hsym⟩ := leafLoaded_of_single hc hseq him htree hx hsingle
  obtain ⟨u, hu, hstate, hsyms, -⟩ := decodeOfADegenerateTree s root (hlen ▸ List.length_pos_of_mem hx) (hlen ▸ hn) hnbits hvalid
    hroot hnode hleaf
  refine ⟨u, hu, by rw [hstate]; rfl, by rw [hstate]; rfl, fun i hi => ?_, by rw [hstate]⟩
  rw [List.length_map] at hi
  rw [hsyms i (hlen ▸ hi), hsym, List.getElem?_map, List.getElem?_eq_getElem hi, hsingle _ (List.getElem_mem hi)]
  rfl

/-- With two or more symbols, DECODE follows the codes from the root to their leaves (42_table_compiler.md R119 (b), R145). -/
theorem decodes_of_distinct (hdistinct : ∃ x ∈ seq, ∃ y ∈ seq, x ≠ y) (hstream : StreamHolds s (codesOf s.cfg seq).flatten)
    (hused : codedLength s.cfg seq ≤ s.decNbits.toNat) :
    Decodes s (seq.map (BitVec.ofNat 8)) (BitVec.ofNat 32 (codedLength s.cfg seq)) := by
  obtain ⟨hvalid, hroot, hinternal, hpaths⟩ := compiledRomFollowsTheCodes s seq im hc hseq hdistinct him htree
  have halphabet : 0 < s.cfg.alphabet := Nat.two_pow_pos _
  have hnodes : s.treeRoot.toNat < s.cfg.nodes := by
    rw [hroot, Config.nodes]
    exact Nat.sub_pos_of_lt (by omega)
  obtain ⟨x, hx, -⟩ := hdistinct
  have hpos : 0 < seq.length := List.length_pos_of_mem hx
  have hready : WalkReady s := ⟨by omega, by omega, hnbits, hvalid, hnodes, by rwa [hroot]⟩
  obtain ⟨u, hu, hstate, hsyms, -⟩ := decodeWalksTheTree s _ _ hready (by rw [hlen, List.length_map]) (forall₂_codesOf hpaths).flip
    (by rwa [length_flatten_codesOf]) hstream
  rw [length_flatten_codesOf] at hstate
  exact ⟨u, hu, by rw [hstate]; rfl, by rw [hstate]; rfl, hsyms, by rw [hstate]⟩

/-- DECODE with a compiled tree gives back the sequence whose codes the stream begins with (R151). -/
theorem exec_decode_of_compiled (hne : seq ≠ []) (hstream : StreamHolds s (codesOf s.cfg seq).flatten)
    (hused : codedLength s.cfg seq ≤ s.decNbits.toNat) :
    ∃ u, exec .decode s = .next u ∧ u.done = true ∧ u.fail = false ∧ SymbufHolds u (seq.map (BitVec.ofNat 8)) ∧
      ((∃ x ∈ seq, ∃ y ∈ seq, x ≠ y) → u.decBitsUsed = BitVec.ofNat 32 (codedLength s.cfg seq)) ∧
      ((∀ x ∈ seq, ∀ y ∈ seq, x = y) → u.decBitsUsed = 0) := by
  by_cases hdistinct : ∃ x ∈ seq, ∃ y ∈ seq, x ≠ y
  · obtain ⟨u, hu, hdone, hfail, hsyms, hcount⟩ := decodes_of_distinct hc hseq him htree hlen hn hnbits hdistinct hstream hused
    obtain ⟨x, hx, y, hy, hxy⟩ := hdistinct
    exact ⟨u, hu, hdone, hfail, hsyms, fun _ => hcount, fun hsame => absurd (hsame x hx y hy) hxy⟩
  · have hsame : ∀ x ∈ seq, ∀ y ∈ seq, x = y := fun x hx y hy => by_contra fun hxy => hdistinct ⟨x, hx, y, hy, hxy⟩
    obtain ⟨u, hu, hdone, hfail, hsyms, hcount⟩ := decodes_of_single hc hseq him htree hlen hn hnbits hne hsame
    exact ⟨u, hu, hdone, hfail, hsyms, fun h => absurd h hdistinct, fun _ => hcount⟩

end Decoding

section RoundTrip

variable {s : State} {seq : List Nat} {im : Images}

/-- The state an ENCODE leaves that packed `total` bits, with BITBUF holding `m` (44_encoder.md R131, R132). -/
def encoded (s : State) (m : Memory Byte) (total : Nat) : State :=
  { succeeded s with bitbuf := m, encBitlen := BitVec.ofNat 32 total, encBytelen := BitVec.ofNat 32 (ceilDiv total 8) }

/-- ENCODE with the LUT image of the sequence loaded leaves the sequence's codes in BITBUF from bit 0 up (44_encoder.md R131, R138). -/
theorem execEncode_of_compiled (hc : s.cfg.wf) (hseq : InAlphabet s.cfg seq) (him : compile s.cfg seq = .ok im) (hlut : LutLoaded s im)
    (hread : SymbufHolds s (seq.map (BitVec.ofNat 8))) (hlen : s.encNsym.toNat = seq.length) (hn : seq.length ≤ s.cfg.symCap)
    (hcap : codedLength s.cfg seq ≤ 8 * s.cfg.byteCap) :
    ∃ m, exec .encode s = .next (encoded s m (codedLength s.cfg seq)) ∧
      ∀ p, p < codedLength s.cfg seq → BitAt m p ((codesOf s.cfg seq).flatten.getD p false) := by
  obtain ⟨t, ht, hstate, hbits, -⟩ := encodePacksTheCodes s _ _ _ (by rw [hlen, List.length_map]) (by rwa [List.length_map]) hread
    (forall₂_codesOf (compiledLutGivesTheCodes s seq im hc hseq him hlut).1) rfl (by rwa [length_flatten_codesOf])
  rw [length_flatten_codesOf] at hstate hbits
  exact ⟨t.bitbuf, ht.trans (congrArg _ hstate), fun p hp => hbits p (by rw [ceilDiv]; omega)⟩

/-- Settles O60: ENCODE writes the codes; DECODE follows them where two symbols differ, and emits the leaf at the root where none do. -/
theorem decodeInvertsEncodeOnCompiledTables : Obligations.DecodeInvertsEncodeOnCompiledTables := by
  intro s seq im hc hne hseq him hlut htree hread henc hdec hn hcap
  obtain ⟨m, ht, hbits⟩ := execEncode_of_compiled hc hseq him hlut hread henc hn hcap
  have hbytes : ceilDiv (codedLength s.cfg seq) 8 ≤ s.cfg.byteCap := by rw [ceilDiv]; omega
  have hbitlen : (encoded s m (codedLength s.cfg seq)).encBitlen.toNat = codedLength s.cfg seq := toNat_bitCount hc hcap
  have hbytelen : (encoded s m (codedLength s.cfg seq)).encBytelen.toNat = ceilDiv (codedLength s.cfg seq) 8 :=
    toNat_bitCount hc (by omega)
  refine ⟨_, ht, rfl, hbitlen, fun nbits hlow hhigh => ?_⟩
  exact exec_decode_of_compiled hc hseq him htree hdec hn (by change nbits.toNat ≤ 8 * s.cfg.byteCap; omega) hne
    (fun p hp => hbits p (by rwa [← length_flatten_codesOf])) (hbitlen.symm.trans_le hlow)

end RoundTrip

end Sys2Proof.Machine
end

section
/-! SUPPORT. What the host reads back (60_exceptions.md R153, R165): a window cell after a write of it, and STATUS after a command finished. -/

namespace Sys2Proof.Machine

open Sys2Proof.Claims

section ReadBack

variable {s : State} {c : Cause} {info : Word}

/-- Settles O26: the write leaves the block idle with the stored fields in the cell, and an idle block's cell reads as the word it holds. -/
theorem rdAfterWrReadsTheStoredFields : Obligations.RdAfterWrReadsTheStoredFields := by
  intro s a l d hc hlut hidle hcell
  obtain ⟨t, hwr, ht, hword, -⟩ := wrStoresOneCell s a l d hc hlut hidle hcell
  have hcfg : t.cfg = s.cfg := by rw [ht]
  have hpending : t.pending = none := by rw [ht]; exact hidle
  have hrd := rdReturnsTheCell t a l _ (hcfg ▸ hc) hpending (hcfg ▸ hcell) hword
  exact ⟨t, _, hwr, hrd, rfl, rfl⟩

/-- STATUS of a failed command with no sticky flag: CAUSE from bit 16 up, FAIL and DONE (40_host_bus.md R84). -/
theorem State.statusValue_failed (hovr : s.ovr = false) (hbus : s.busErr = false) :
    (failed s c info).statusValue = (0 : BitVec 8) ++ c.code ++ (0x0006 : BitVec 16) := by
  simp only [State.statusValue, State.busy, failed, hovr, hbus]
  cases c <;> rfl

/-- STATUS of a command that succeeded, with no sticky flag: DONE only. -/
theorem State.statusValue_succeeded (hovr : s.ovr = false) (hbus : s.busErr = false) : (succeeded s).statusValue = 0x00000002 := by
  simp only [State.statusValue, State.busy, succeeded, hovr, hbus]
  rfl

/-- Settles O34: each word is the code of its cause above the flags of a failed command. -/
theorem failedCommandShowsItsCauseCode : Obligations.FailedCommandShowsItsCauseCode := by
  intro s info hovr hbus
  have hfailed : ∀ c : Cause, (failed s c info).regValue .status = (0 : BitVec 8) ++ c.code ++ (0x0006 : BitVec 16) :=
    fun _ => State.statusValue_failed hovr hbus
  exact ⟨hfailed .badCmd, hfailed .nsymRange, hfailed .nbitsRange, hfailed .noCode, hfailed .badCode, hfailed .outOvf, hfailed .noTree,
    hfailed .romRange, hfailed .exhausted, State.statusValue_succeeded hovr hbus⟩

end ReadBack

end Sys2Proof.Machine
end

section
/-! SUPPORT. The step as a whole: the transactions, the idle block and reset (20_memory.md R61, 60_exceptions.md R167, 70_reset_and_hazards.md R168),
and the run of scheduled transactions to the engine step of a pending command (41_command_protocol.md R99). -/

namespace Sys2Proof.Machine

open Sys2Proof.Claims

section OneStep

variable {s : State}

/-- With no command pending the engine's turn only takes its entry off the schedule (assumption log 2). -/
theorem step_of_idle_engine {rest : List Event} (hs : s.schedule = .engine :: rest) (hp : s.pending = none) :
    step s = .next { s with schedule := rest } := by
  simp [step, State.fetch, State.fetchCommand, hs, hp]

/-- With nothing scheduled and no command pending the block stays as it is (R167; assumption log 2). -/
theorem step_of_idle_unscheduled (hs : s.schedule = []) (hp : s.pending = none) : step s = .next s := by
  simp [step, State.fetch, State.fetchCommand, hs, hp]

/-- Settles O5: the decoder of both formats reads a transaction word as the host's turn does. -/
theorem stepRunsScheduledTransaction : Obligations.StepRunsScheduledTransaction :=
  fun _ _ _ _ hs hd => step_of_txn hs (decodeCode_txn_eq_ok_iff.1 hd)

/-- Settles O7: an idle engine's turn and an idle block with nothing scheduled. -/
theorem idleBlockKeepsItsState : Obligations.IdleBlockKeepsItsState :=
  fun _ hidle => ⟨fun _ hs => step_of_idle_engine hs hidle, fun hs => step_of_idle_unscheduled hs hidle⟩

/-- Settles O10: a reset step is `applyReset` of the state with its entry taken off the schedule. -/
theorem resetStepResets : Obligations.ResetStepResets :=
  fun _ _ hs => step_of_reset hs

/-- Settles O12: the reset state is a reset of itself, and a reset establishes the invariant for every configuration in bounds. -/
theorem resetMeetsTheInvariant : Obligations.ResetMeetsTheInvariant := by
  have hcfg : State.reset.cfg.wf := by decide
  exact State.applyReset_wf hcfg

end OneStep

section Run

variable {s t : State}

/-- A step that answers is the first of a run. -/
theorem run_succ_of_step (h : step s = .next t) (k : Nat) : core.run (k + 1) s = core.run k t := by
  have hcore : core.step s = .next t := h
  simp only [Host.Core.run, hcore]

/-- A run of one step is that step. -/
theorem run_one_of_step (h : step s = .next t) : core.run 1 s = .next t := run_succ_of_step h 0

theorem TransactionFrame.schedule_eq (h : TransactionFrame s t) : t.schedule = s.schedule := by
  obtain ⟨u, rfl⟩ := h; rfl

theorem TransactionFrame.pending_eq (h : TransactionFrame s t) : t.pending = s.pending := by
  obtain ⟨u, rfl⟩ := h; rfl

theorem TransactionFrame.sameOperands (h : TransactionFrame s t) : SameOperands s t := by
  obtain ⟨u, rfl⟩ := h
  exact ⟨rfl, rfl, rfl, rfl, rfl, rfl, rfl, rfl, rfl, rfl, rfl⟩

/-- Transactions one after the other change no more than one may, however many of them are taken off the schedule. -/
theorem TransactionFrame.unscheduled_trans {u : State} {rest : List Event} (h : TransactionFrame { s with schedule := rest } t)
    (h' : TransactionFrame { t with schedule := [] } u) : TransactionFrame { s with schedule := [] } u := by
  obtain ⟨v, rfl⟩ := h
  obtain ⟨v, rfl⟩ := h'
  exact ⟨v, rfl⟩

/-- What a transaction word decodes to answers from a busy block, within the frame of a transaction (R97, R98). -/
theorem exec_txn_transactionFrame {v : TxnWord} {i : Instr} (hbusy : s.busy = true) (hd : decodeTxn v = .ok i) :
    ∃ t, exec i s = .next t ∧ TransactionFrame s t := by
  obtain ⟨t, ht⟩ := exec_next i s
  refine ⟨t, ht, ?_⟩
  obtain ⟨a, d, -, rfl⟩ | ⟨a, -, rfl⟩ := decodeTxn_eq_ok_iff.1 hd
  · exact exec_wr_transactionFrame hbusy ht
  · exact exec_rd_transactionFrame ht

/-- A busy block performs all the transactions scheduled, and together they change no more than one of them may. -/
theorem run_transactions_transactionFrame {w : Word} {events : List Event}
    (htxn : ∀ e ∈ events, ∃ v i, e = .txn v ∧ decodeTxn v = .ok i) (hs : s.schedule = events) (hp : s.pending = some w) :
    ∃ t, core.run events.length s = .next t ∧ TransactionFrame { s with schedule := [] } t := by
  induction events generalizing s with
  | nil => exact ⟨s, rfl, s, by rw [← hs]⟩
  | cons e rest ih =>
    obtain ⟨⟨v, i, rfl, hd⟩, hrest⟩ := List.forall_mem_cons.1 htxn
    obtain ⟨t, hexec, ht⟩ := exec_txn_transactionFrame (s := { s with schedule := rest }) (by simp [State.busy, hp]) hd
    obtain ⟨u, hrun, hu⟩ := ih hrest ht.schedule_eq (ht.pending_eq.trans hp)
    have hstep : step s = .next t := (step_of_txn hs hd).trans hexec
    exact ⟨u, (run_succ_of_step hstep _).trans hrun, ht.unscheduled_trans hu⟩

/-- Settles O33: the run of the transactions keeps the command and its operands and leaves nothing scheduled, so the next step is the
engine step of that command, which finishes it. -/
theorem pendingCommandIsFinished : Obligations.PendingCommandIsFinished := by
  intro s w hpending htxn
  obtain ⟨t, hrun, ht⟩ := run_transactions_transactionFrame htxn rfl hpending
  have hpending' : t.pending = some w := ht.pending_eq.trans hpending
  obtain ⟨u, hexec, hidle, -⟩ := engineStepFinishesTheCommand t w
  have hstep : step t = .next u := (step_of_unscheduled ht.schedule_eq hpending').trans hexec
  exact ⟨t, u, hrun, hpending', ht.sameOperands, run_one_of_step hstep, hexec, hidle⟩

end Run

end Sys2Proof.Machine
end
